-- ==== Sys2Proof/Word.lean ====
section
/-! DEFINITION. The word types: a register or address is 32 bits, an instruction a halfword, a memory cell a byte
(10_state.md R20, 30_encoding.md R80, 20_memory.md R50). -/

namespace Sys2Proof

/-- A register value or an address (R20, R50): 32 bits; arithmetic wraps modulo 2^32 (R9). -/
abbrev Word := BitVec 32

/-- A half-word: one Thumb instruction (R80) or a 16-bit datum (R58). -/
abbrev Half := BitVec 16

/-- A byte, the addressable unit of memory (R50). -/
abbrev Byte := BitVec 8

end Sys2Proof
end

