-- ==== Sys2Proof/Config.lean ====
section
/-! DEFINITION. What an implementation or a launch fixes: the parameters of 00_scope.md R8 as plain data (State holds
one value of Params and no step changes it), the schedule of the external inputs, and the free values. -/

namespace Sys2Proof

/-- `ARCH` (R2, R8): the two architecture versions in scope. -/
inductive Arch where
  | v4T
  | v5T
deriving DecidableEq, Repr, Inhabited

/-- `ENDIAN` (R8, R52): the byte order of data and of instruction fetch. -/
inductive Endian where
  | little
  | big
deriving DecidableEq, Repr, Inhabited

/-- `ALIGN_POLICY` (R8, R53): what a misaligned halfword or word access does. -/
inductive AlignPolicy where
  | fault
  | refuse
deriving DecidableEq, Repr, Inhabited

/-- `SWI_ENV` (R8, R141): what follows a SWI. -/
inductive SwiEnv where
  | architectural
  | semihost
deriving DecidableEq, Repr, Inhabited

/-- `MUL_SAME_REG` (R8, U10): `MUL Rd, Rm` with Rd = Rm. -/
inductive MulSameReg where
  | refuse
  | compute
deriving DecidableEq, Repr, Inhabited

/-- The seven processor modes (60_exceptions.md R272); also the values of `LAUNCH_MODE` (R8). Any other value of
CPSR.M is illegal and no rule produces one, so the type has no constructor for it. -/
inductive Mode where
  | user
  | fiq
  | irq
  | supervisor
  | abort
  | undefined
  | system
deriving DecidableEq, Repr, Inhabited

/-- A run of `size` byte addresses from `base` upwards. -/
structure Region where
  base : Nat
  size : Nat
deriving DecidableEq, Repr, Inhabited

/-- The admission part of `Mem` (R8, D4): the byte addresses admitted for read, for write and for fetch, each set as
a list of regions. -/
structure MemMap where
  readable : List Region
  writable : List Region
  fetchable : List Region
deriving DecidableEq, Repr, Inhabited

/-- The parameters of R8 that every step reads. `XLEN` and `VECTOR_BASE` are fixed (32 bits, address 0);
`LAUNCH_MODE` is a field of a launch (Machine/Launch.lean). The defaults are R8's
(log entry 6). -/
structure Params where
  arch : Arch := .v5T
  endian : Endian := .little
  alignPolicy : AlignPolicy := .fault
  swiEnv : SwiEnv := .architectural
  mulSameReg : MulSameReg := .refuse
  mem : MemMap
deriving DecidableEq, Repr, Inhabited

/-- The event oracles `IRQ`, `FIQ` and `RESET` (R8, D10): the numbers of the steps at whose start the input is
asserted. A finite list gives any schedule of any finite run (log entry 7). -/
structure Events where
  irqAt : List Nat
  fiqAt : List Nat
  resetAt : List Nat
deriving DecidableEq, Repr, Inhabited

namespace Config

/-- `VECTOR_BASE` (R8, D12): fixed at 0. -/
def vectorBase : Word := 0x00000000#32

/-- A bit the spec leaves open ("any value"): the C flag after MUL under v4T (U11) and the flags after Reset (R37).
No body: nothing can be proved of its value. State's counter `freeIdx` numbers the draws (log entries 9, 10). -/
opaque freeBit : Nat → Bool

/-- A 32-bit value the spec leaves open: registers after the Reset exception (R37, R282, U22;
log entry 10). -/
opaque freeWord : Nat → Word

/-- A mode the spec leaves open: the M field of an SPSR after the Reset exception (R37; log
entry 10). -/
opaque freeMode : Nat → Mode

end Config

end Sys2Proof
end

