-- ==== Sys2Proof/Syntax.lean ====
section
/-! DEFINITION. The instructions: one constructor per row of spec/opcode_table.json, in the table's order
(30_encoding.md R81). Operand fields are the encoding's own fields; register numbers are 3 or 4 bits (R88). Every
one of the 65536 halfwords is exactly one term of Instr. -/

namespace Sys2Proof

/-- A 3-bit register field: r0 to r7 (R88). -/
abbrev LoReg := BitVec 3

/-- A 4-bit register number of formats DP6 and B4: r0 to r15 (R88). -/
abbrev Reg := BitVec 4

/-- The fourteen conditions of B1 (R95), in the order of their codes 0000 to 1101. -/
inductive Cond where
  | eq
  | ne
  | cs
  | cc
  | mi
  | pl
  | vs
  | vc
  | hi
  | ls
  | ge
  | lt
  | gt
  | le
deriving DecidableEq, Repr, Inhabited

/-- The instruction set: the 76 instruction rows and the 8 rows of the undefined space (R81, R91). -/
inductive Instr where
  /-- `LSL Rd, Rm, #sh` (DP4 R159). -/
  | lslImm (rd rm : LoReg) (sh : BitVec 5)
  /-- `LSR Rd, Rm, #sh (field 0 means 32)` (DP4 R160). -/
  | lsrImm (rd rm : LoReg) (sh : BitVec 5)
  /-- `ASR Rd, Rm, #sh (field 0 means 32)` (DP4 R161). -/
  | asrImm (rd rm : LoReg) (sh : BitVec 5)
  /-- `ADD Rd, Rn, Rm` (DP1 R151). -/
  | addReg (rd rn rm : LoReg)
  /-- `SUB Rd, Rn, Rm` (DP1 R152). -/
  | subReg (rd rn rm : LoReg)
  /-- `ADD Rd, Rn, #imm3` (DP2 R153). -/
  | addImm3 (rd rn : LoReg) (imm : BitVec 3)
  /-- `SUB Rd, Rn, #imm3` (DP2 R154). -/
  | subImm3 (rd rn : LoReg) (imm : BitVec 3)
  /-- `MOV Rd, #imm8` (DP3 R155). -/
  | movImm8 (rd : LoReg) (imm : BitVec 8)
  /-- `CMP Rn, #imm8` (DP3 R156). -/
  | cmpImm8 (rn : LoReg) (imm : BitVec 8)
  /-- `ADD Rd, #imm8` (DP3 R157). -/
  | addImm8 (rd : LoReg) (imm : BitVec 8)
  /-- `SUB Rd, #imm8` (DP3 R158). -/
  | subImm8 (rd : LoReg) (imm : BitVec 8)
  /-- `AND Rd, Rm` (DP5 R162). -/
  | andReg (rd rm : LoReg)
  /-- `EOR Rd, Rm` (DP5 R163). -/
  | eorReg (rd rm : LoReg)
  /-- `LSL Rd, Rs` (DP5 R164). -/
  | lslReg (rd rs : LoReg)
  /-- `LSR Rd, Rs` (DP5 R165). -/
  | lsrReg (rd rs : LoReg)
  /-- `ASR Rd, Rs` (DP5 R166). -/
  | asrReg (rd rs : LoReg)
  /-- `ADC Rd, Rm` (DP5 R167). -/
  | adc (rd rm : LoReg)
  /-- `SBC Rd, Rm` (DP5 R168). -/
  | sbc (rd rm : LoReg)
  /-- `ROR Rd, Rs` (DP5 R169). -/
  | rorReg (rd rs : LoReg)
  /-- `TST Rn, Rm` (DP5 R170). -/
  | tst (rn rm : LoReg)
  /-- `NEG Rd, Rn` (DP5 R171). -/
  | neg (rd rn : LoReg)
  /-- `CMP Rn, Rm (both Lo)` (DP5 R172). -/
  | cmpReg (rn rm : LoReg)
  /-- `CMN Rn, Rm` (DP5 R173). -/
  | cmn (rn rm : LoReg)
  /-- `ORR Rd, Rm` (DP5 R174). -/
  | orr (rd rm : LoReg)
  /-- `MUL Rd, Rm` (DP5 R175). -/
  | mul (rd rm : LoReg)
  /-- `BIC Rd, Rm` (DP5 R176). -/
  | bic (rd rm : LoReg)
  /-- `MVN Rd, Rm` (DP5 R177). -/
  | mvn (rd rm : LoReg)
  /-- `ADD Rd, Rm with a Hi register` (DP6 R178). -/
  | addHi (rd rm : Reg)
  /-- `CMP Rn, Rm with a Hi register` (DP6 R179). -/
  | cmpHi (rn rm : Reg)
  /-- `MOV Rd, Rm with a Hi register` (DP6 R180). -/
  | movHi (rd rm : Reg)
  /-- `BX Rm; sbz is insn[2:0], which must be 000` (B4 R125). -/
  | bx (rm : Reg) (sbz : BitVec 3)
  /-- `BLX Rm (v5T); sbz is insn[2:0], which must be 000` (B4 R126). -/
  | blxReg (rm : Reg) (sbz : BitVec 3)
  /-- `LDR Rd, [PC, #off8*4]` (LS4 R235). -/
  | ldrPc (rd : LoReg) (off : BitVec 8)
  /-- `STR Rd, [Rn, Rm]` (LS3 R227). -/
  | strReg (rd rn rm : LoReg)
  /-- `STRH Rd, [Rn, Rm]` (LS3 R228). -/
  | strhReg (rd rn rm : LoReg)
  /-- `STRB Rd, [Rn, Rm]` (LS3 R229). -/
  | strbReg (rd rn rm : LoReg)
  /-- `LDRSB Rd, [Rn, Rm]` (LS3 R230). -/
  | ldrsbReg (rd rn rm : LoReg)
  /-- `LDR Rd, [Rn, Rm]` (LS3 R231). -/
  | ldrReg (rd rn rm : LoReg)
  /-- `LDRH Rd, [Rn, Rm]` (LS3 R232). -/
  | ldrhReg (rd rn rm : LoReg)
  /-- `LDRB Rd, [Rn, Rm]` (LS3 R233). -/
  | ldrbReg (rd rn rm : LoReg)
  /-- `LDRSH Rd, [Rn, Rm]` (LS3 R234). -/
  | ldrshReg (rd rn rm : LoReg)
  /-- `STR Rd, [Rn, #off5*4]` (LS1 R221). -/
  | strImm (rd rn : LoReg) (off : BitVec 5)
  /-- `LDR Rd, [Rn, #off5*4]` (LS1 R222). -/
  | ldrImm (rd rn : LoReg) (off : BitVec 5)
  /-- `STRB Rd, [Rn, #off5]` (LS1 R223). -/
  | strbImm (rd rn : LoReg) (off : BitVec 5)
  /-- `LDRB Rd, [Rn, #off5]` (LS1 R224). -/
  | ldrbImm (rd rn : LoReg) (off : BitVec 5)
  /-- `STRH Rd, [Rn, #off5*2]` (LS2 R225). -/
  | strhImm (rd rn : LoReg) (off : BitVec 5)
  /-- `LDRH Rd, [Rn, #off5*2]` (LS2 R226). -/
  | ldrhImm (rd rn : LoReg) (off : BitVec 5)
  /-- `STR Rd, [SP, #off8*4]` (LS5 R236). -/
  | strSp (rd : LoReg) (off : BitVec 8)
  /-- `LDR Rd, [SP, #off8*4]` (LS5 R237). -/
  | ldrSp (rd : LoReg) (off : BitVec 8)
  /-- `ADD Rd, PC, #imm8*4` (DP7 R181). -/
  | addPc (rd : LoReg) (imm : BitVec 8)
  /-- `ADD Rd, SP, #imm8*4` (DP7 R182). -/
  | addRdSp (rd : LoReg) (imm : BitVec 8)
  /-- `ADD SP, SP, #imm7*4` (DP8 R183). -/
  | addSp (imm : BitVec 7)
  /-- `SUB SP, SP, #imm7*4` (DP8 R184). -/
  | subSp (imm : BitVec 7)
  /-- `PUSH {list{, lr}}; lr is the R bit` (LSM2 R253). -/
  | push (lr : Bool) (list : BitVec 8)
  /-- `POP {list{, pc}}; pc is the R bit` (LSM2 R254). -/
  | pop (pc : Bool) (list : BitVec 8)
  /-- `STMIA Rn!, {list}` (LSM1 R251). -/
  | stmia (rn : LoReg) (list : BitVec 8)
  /-- `LDMIA Rn!, {list}` (LSM1 R252). -/
  | ldmia (rn : LoReg) (list : BitVec 8)
  /-- `BEQ label (cond = 0000)` (B1 R120). -/
  | beq (off : BitVec 8)
  /-- `BNE label (cond = 0001)` (B1 R120). -/
  | bne (off : BitVec 8)
  /-- `BCS label (cond = 0010)` (B1 R120). -/
  | bcs (off : BitVec 8)
  /-- `BCC label (cond = 0011)` (B1 R120). -/
  | bcc (off : BitVec 8)
  /-- `BMI label (cond = 0100)` (B1 R120). -/
  | bmi (off : BitVec 8)
  /-- `BPL label (cond = 0101)` (B1 R120). -/
  | bpl (off : BitVec 8)
  /-- `BVS label (cond = 0110)` (B1 R120). -/
  | bvs (off : BitVec 8)
  /-- `BVC label (cond = 0111)` (B1 R120). -/
  | bvc (off : BitVec 8)
  /-- `BHI label (cond = 1000)` (B1 R120). -/
  | bhi (off : BitVec 8)
  /-- `BLS label (cond = 1001)` (B1 R120). -/
  | bls (off : BitVec 8)
  /-- `BGE label (cond = 1010)` (B1 R120). -/
  | bge (off : BitVec 8)
  /-- `BLT label (cond = 1011)` (B1 R120). -/
  | blt (off : BitVec 8)
  /-- `BGT label (cond = 1100)` (B1 R120). -/
  | bgt (off : BitVec 8)
  /-- `BLE label (cond = 1101)` (B1 R120). -/
  | ble (off : BitVec 8)
  /-- `SWI imm8` (SWI R140). -/
  | swi (imm : BitVec 8)
  /-- `B label` (B2 R121). -/
  | b (off : BitVec 11)
  /-- `BLX label, second half (v5T); offHigh is insn[10:1], insn[0] is 0` (B3a R124). -/
  | blxLabel (offHigh : BitVec 10)
  /-- `BL label or BLX label, first half (H = 0)` (B3 R122). -/
  | blFirst (off : BitVec 11)
  /-- `BL label, second half (H = 1)` (B3 R123). -/
  | blSecond (off : BitVec 11)
  /-- `UNDEFINED 10110001 xxxxxxxx` (R91 U7). -/
  | undB1 (rest : BitVec 8)
  /-- `UNDEFINED 1011001 xxxxxxxxx` (R91 U7). -/
  | undB2 (rest : BitVec 9)
  /-- `UNDEFINED 1011011 xxxxxxxxx` (R91 U7). -/
  | undB6 (rest : BitVec 9)
  /-- `UNDEFINED 101110 xxxxxxxxxx` (R91 U7). -/
  | undB8 (rest : BitVec 10)
  /-- `REFUSE_U9 10111110 xxxxxxxx, the space of section 7.8` (R91 U9). -/
  | refuseU9 (rest : BitVec 8)
  /-- `UNDEFINED 10111111 xxxxxxxx` (R91 U7). -/
  | undBF (rest : BitVec 8)
  /-- `UNDEFINED 11011110 xxxxxxxx, B1 with cond = 1110` (R91 U5). -/
  | undDE (rest : BitVec 8)
  /-- `UNDEFINED 11101 xxxxxxxxxx 1, B3a with insn[0] = 1` (R91 U6). -/
  | undE8 (rest : BitVec 10)
deriving DecidableEq, Repr

end Sys2Proof
end

