-- ==== Sys2Proof/WellFormed.lean ====
section
/-! DEFINITION. The operand restrictions of 30_encoding.md R92 that the encoding alone decides, each under its own
name. (U4, U15 depend on a loaded or register value, U8 on `ARCH`, U10 on `MUL_SAME_REG`: the meanings test those.) -/

namespace Sys2Proof

/-- Which restriction of R92 an instruction term breaks. -/
inductive WfError where
  /-- U1: a DP6 form with both registers Lo (H1 = H2 = 0). -/
  | bothLo
  /-- U17: DP6 CMP with r15 as an operand. -/
  | cmpHiPc
  /-- U2: B4 with `insn[2:0]` not 000. -/
  | sbzNonzero
  /-- U3: `BLX Rm` with Rm = r15. -/
  | blxPc
  /-- U12: LDMIA or STMIA with the base in the register list. -/
  | baseInList
  /-- U13: a multiple transfer with an empty register list. -/
  | emptyList
deriving DecidableEq, Repr

/-- Is the 4-bit register number one of r0 to r7? (R88: the H bit is 0.) -/
def isLo (r : Reg) : Bool := r.toNat < 8

/-- The check of R92: the first restriction the term breaks, in the order the instruction's rule tests them. -/
def wfCheck : Instr → Option WfError
  | .addHi rd rm => if isLo rd && isLo rm then some .bothLo else none
  | .cmpHi rn rm =>
    if isLo rn && isLo rm then some .bothLo
    else if rn = 15#4 || rm = 15#4 then some .cmpHiPc else none
  | .movHi rd rm => if isLo rd && isLo rm then some .bothLo else none
  | .bx _ sbz => if sbz = 0#3 then none else some .sbzNonzero
  | .blxReg rm sbz =>
    if sbz = 0#3 then (if rm = 15#4 then some .blxPc else none) else some .sbzNonzero
  | .push lr list => if !lr && list = 0#8 then some .emptyList else none
  | .pop pc list => if !pc && list = 0#8 then some .emptyList else none
  | .stmia rn list =>
    if list = 0#8 then some .emptyList else if list.getLsbD rn.toNat then some .baseInList else none
  | .ldmia rn list =>
    if list = 0#8 then some .emptyList else if list.getLsbD rn.toNat then some .baseInList else none
  | .lslImm _ _ _ | .lsrImm _ _ _ | .asrImm _ _ _ | .addReg _ _ _ | .subReg _ _ _ | .addImm3 _ _ _
  | .subImm3 _ _ _ | .movImm8 _ _ | .cmpImm8 _ _ | .addImm8 _ _ | .subImm8 _ _ | .andReg _ _ | .eorReg _ _
  | .lslReg _ _ | .lsrReg _ _ | .asrReg _ _ | .adc _ _ | .sbc _ _ | .rorReg _ _ | .tst _ _ | .neg _ _
  | .cmpReg _ _ | .cmn _ _ | .orr _ _ | .mul _ _ | .bic _ _ | .mvn _ _ | .ldrPc _ _ | .strReg _ _ _
  | .strhReg _ _ _ | .strbReg _ _ _ | .ldrsbReg _ _ _ | .ldrReg _ _ _ | .ldrhReg _ _ _ | .ldrbReg _ _ _
  | .ldrshReg _ _ _ | .strImm _ _ _ | .ldrImm _ _ _ | .strbImm _ _ _ | .ldrbImm _ _ _ | .strhImm _ _ _
  | .ldrhImm _ _ _ | .strSp _ _ | .ldrSp _ _ | .addPc _ _ | .addRdSp _ _ | .addSp _ | .subSp _ | .beq _
  | .bne _ | .bcs _ | .bcc _ | .bmi _ | .bpl _ | .bvs _ | .bvc _ | .bhi _ | .bls _ | .bge _ | .blt _ | .bgt _
  | .ble _ | .swi _ | .b _ | .blxLabel _ | .blFirst _ | .blSecond _ | .undB1 _ | .undB2 _ | .undB6 _
  | .undB8 _ | .refuseU9 _ | .undBF _ | .undDE _ | .undE8 _ => none

/-- An instruction that breaks no restriction of R92. -/
abbrev WellFormed (i : Instr) : Prop := wfCheck i = none

end Sys2Proof
end

