-- ==== Sys2Proof/Decode.lean ====
section
/-! DEFINITION. Decoding (30_encoding.md R80 to R91): a total function from halfwords to instructions, one halfword
each (R80); from bytes, where too few are refused by name; and the encoder, written from the same tables. The
version-dependent rows (R90: `BLX` under v4T) and the restrictions of R92 are tested by the meanings. -/

namespace Sys2Proof

/-- The `len` bits of `w` from bit `lo` upwards: `insn[lo+len-1:lo]` (R9). -/
def field (w : Half) (lo len : Nat) : BitVec len := w.extractLsb' lo len

/-- Bit `i` of `w` (R9). -/
def bitAt (w : Half) (i : Nat) : Bool := w.getLsbD i

/-- R89, DP5: the sixteen register-to-register operations by `insn[9:6]`. -/
def decodeDp5 (w : Half) : Instr :=
  let m := field w 3 3
  let d := field w 0 3
  match (field w 6 4).toNat with
  | 0 => .andReg d m
  | 1 => .eorReg d m
  | 2 => .lslReg d m
  | 3 => .lsrReg d m
  | 4 => .asrReg d m
  | 5 => .adc d m
  | 6 => .sbc d m
  | 7 => .rorReg d m
  | 8 => .tst d m
  | 9 => .neg d m
  | 10 => .cmpReg d m
  | 11 => .cmn d m
  | 12 => .orr d m
  | 13 => .mul d m
  | 14 => .bic d m
  | _ => .mvn d m

/-- R82 DP6 and R83 B4: the Hi-register operations and the branch-exchanges by `insn[9:7]`. -/
def decodeHi (w : Half) : Instr :=
  let d := field w 7 1 ++ field w 0 3
  let m := field w 3 4
  match (field w 8 2).toNat with
  | 0 => .addHi d m
  | 1 => .cmpHi d m
  | 2 => .movHi d m
  | _ => if bitAt w 7 then .blxReg m (field w 0 3) else .bx m (field w 0 3)

/-- R89, LS3: the eight base-plus-register transfers by `insn[11:9]`. -/
def decodeLs3 (w : Half) : Instr :=
  let m := field w 6 3
  let n := field w 3 3
  let d := field w 0 3
  match (field w 9 3).toNat with
  | 0 => .strReg d n m
  | 1 => .strhReg d n m
  | 2 => .strbReg d n m
  | 3 => .ldrsbReg d n m
  | 4 => .ldrReg d n m
  | 5 => .ldrhReg d n m
  | 6 => .ldrbReg d n m
  | _ => .ldrshReg d n m

/-- R82 DP1, DP2: ADD and SUB with a register or a 3-bit immediate by `insn[10:9]`. -/
def decodeAddSub (w : Half) : Instr :=
  let n := field w 3 3
  let d := field w 0 3
  match (field w 9 2).toNat with
  | 0 => .addReg d n (field w 6 3)
  | 1 => .subReg d n (field w 6 3)
  | 2 => .addImm3 d n (field w 6 3)
  | _ => .subImm3 d n (field w 6 3)

/-- R90, `insn[15:11]` = 10110: DP8, PUSH and unallocated space (R91) by `insn[10:8]`. -/
def decode10110 (w : Half) : Instr :=
  match (field w 8 3).toNat with
  | 0 => if bitAt w 7 then .subSp (field w 0 7) else .addSp (field w 0 7)
  | 1 => .undB1 (field w 0 8)
  | 2 => .undB2 (field w 0 9)
  | 3 => .undB2 (field w 0 9)
  | 4 => .push false (field w 0 8)
  | 5 => .push true (field w 0 8)
  | _ => .undB6 (field w 0 9)

/-- R90, `insn[15:11]` = 10111: POP, the space of section 7.8 and unallocated space (R91) by `insn[10:8]`. -/
def decode10111 (w : Half) : Instr :=
  match (field w 8 3).toNat with
  | 4 => .pop false (field w 0 8)
  | 5 => .pop true (field w 0 8)
  | 6 => .refuseU9 (field w 0 8)
  | 7 => .undBF (field w 0 8)
  | _ => .undB8 (field w 0 10)

/-- R90, `insn[15:12]` = 1101: `B<cond>`, the UNDEFINED cond 1110 and SWI by `insn[11:8]` (R95, R84). -/
def decode1101 (w : Half) : Instr :=
  let o := field w 0 8
  match (field w 8 4).toNat with
  | 0 => .beq o
  | 1 => .bne o
  | 2 => .bcs o
  | 3 => .bcc o
  | 4 => .bmi o
  | 5 => .bpl o
  | 6 => .bvs o
  | 7 => .bvc o
  | 8 => .bhi o
  | 9 => .bls o
  | 10 => .bge o
  | 11 => .blt o
  | 12 => .bgt o
  | 13 => .ble o
  | 14 => .undDE o
  | _ => .swi o

/-- R90: the instruction a halfword spells, by `insn[15:11]` and the further bits each row names. Total. -/
def decodeHalf (w : Half) : Instr :=
  match (field w 11 5).toNat with
  | 0 => .lslImm (field w 0 3) (field w 3 3) (field w 6 5)
  | 1 => .lsrImm (field w 0 3) (field w 3 3) (field w 6 5)
  | 2 => .asrImm (field w 0 3) (field w 3 3) (field w 6 5)
  | 3 => decodeAddSub w
  | 4 => .movImm8 (field w 8 3) (field w 0 8)
  | 5 => .cmpImm8 (field w 8 3) (field w 0 8)
  | 6 => .addImm8 (field w 8 3) (field w 0 8)
  | 7 => .subImm8 (field w 8 3) (field w 0 8)
  | 8 => if bitAt w 10 then decodeHi w else decodeDp5 w
  | 9 => .ldrPc (field w 8 3) (field w 0 8)
  | 10 => decodeLs3 w
  | 11 => decodeLs3 w
  | 12 => .strImm (field w 0 3) (field w 3 3) (field w 6 5)
  | 13 => .ldrImm (field w 0 3) (field w 3 3) (field w 6 5)
  | 14 => .strbImm (field w 0 3) (field w 3 3) (field w 6 5)
  | 15 => .ldrbImm (field w 0 3) (field w 3 3) (field w 6 5)
  | 16 => .strhImm (field w 0 3) (field w 3 3) (field w 6 5)
  | 17 => .ldrhImm (field w 0 3) (field w 3 3) (field w 6 5)
  | 18 => .strSp (field w 8 3) (field w 0 8)
  | 19 => .ldrSp (field w 8 3) (field w 0 8)
  | 20 => .addPc (field w 8 3) (field w 0 8)
  | 21 => .addRdSp (field w 8 3) (field w 0 8)
  | 22 => decode10110 w
  | 23 => decode10111 w
  | 24 => .stmia (field w 8 3) (field w 0 8)
  | 25 => .ldmia (field w 8 3) (field w 0 8)
  | 26 => decode1101 w
  | 27 => decode1101 w
  | 28 => .b (field w 0 11)
  | 29 => if bitAt w 0 then .undE8 (field w 1 10) else .blxLabel (field w 1 10)
  | 30 => .blFirst (field w 0 11)
  | _ => .blSecond (field w 0 11)

/-- Why bytes give no instruction. -/
inductive DecodeError where
  /-- Fewer than two bytes: an instruction is one halfword (R80). -/
  | tooShort
deriving DecidableEq, Repr

/-- A halfword of its two bytes, the first at the lower address (R52, R57). -/
def joinHalf (e : Endian) (b0 b1 : Byte) : Half :=
  match e with
  | .little => b1 ++ b0
  | .big => b0 ++ b1

/-- The two bytes of a halfword, the one at the lower address first (R52). -/
def splitHalf (e : Endian) (w : Half) : Byte × Byte :=
  match e with
  | .little => (w.extractLsb' 0 8, w.extractLsb' 8 8)
  | .big => (w.extractLsb' 8 8, w.extractLsb' 0 8)

/-- Decode the first instruction of a byte sequence; what is left over is returned with it. -/
def decode (e : Endian) : List Byte → Except DecodeError (Instr × List Byte)
  | b0 :: b1 :: rest => .ok (decodeHalf (joinHalf e b0 b1), rest)
  | _ => .error .tooShort

/-- The halfword that spells an instruction (R82 to R86, R89, R91). -/
def encode : Instr → Half
  | .lslImm rd rm sh => 0b00000#5 ++ sh ++ rm ++ rd
  | .lsrImm rd rm sh => 0b00001#5 ++ sh ++ rm ++ rd
  | .asrImm rd rm sh => 0b00010#5 ++ sh ++ rm ++ rd
  | .addReg rd rn rm => 0b0001100#7 ++ rm ++ rn ++ rd
  | .subReg rd rn rm => 0b0001101#7 ++ rm ++ rn ++ rd
  | .addImm3 rd rn imm => 0b0001110#7 ++ imm ++ rn ++ rd
  | .subImm3 rd rn imm => 0b0001111#7 ++ imm ++ rn ++ rd
  | .movImm8 rd imm => 0b00100#5 ++ rd ++ imm
  | .cmpImm8 rn imm => 0b00101#5 ++ rn ++ imm
  | .addImm8 rd imm => 0b00110#5 ++ rd ++ imm
  | .subImm8 rd imm => 0b00111#5 ++ rd ++ imm
  | .andReg rd rm => 0b0100000000#10 ++ rm ++ rd
  | .eorReg rd rm => 0b0100000001#10 ++ rm ++ rd
  | .lslReg rd rs => 0b0100000010#10 ++ rs ++ rd
  | .lsrReg rd rs => 0b0100000011#10 ++ rs ++ rd
  | .asrReg rd rs => 0b0100000100#10 ++ rs ++ rd
  | .adc rd rm => 0b0100000101#10 ++ rm ++ rd
  | .sbc rd rm => 0b0100000110#10 ++ rm ++ rd
  | .rorReg rd rs => 0b0100000111#10 ++ rs ++ rd
  | .tst rn rm => 0b0100001000#10 ++ rm ++ rn
  | .neg rd rn => 0b0100001001#10 ++ rn ++ rd
  | .cmpReg rn rm => 0b0100001010#10 ++ rm ++ rn
  | .cmn rn rm => 0b0100001011#10 ++ rm ++ rn
  | .orr rd rm => 0b0100001100#10 ++ rm ++ rd
  | .mul rd rm => 0b0100001101#10 ++ rm ++ rd
  | .bic rd rm => 0b0100001110#10 ++ rm ++ rd
  | .mvn rd rm => 0b0100001111#10 ++ rm ++ rd
  | .addHi rd rm => 0b01000100#8 ++ rd.extractLsb' 3 1 ++ rm ++ rd.extractLsb' 0 3
  | .cmpHi rn rm => 0b01000101#8 ++ rn.extractLsb' 3 1 ++ rm ++ rn.extractLsb' 0 3
  | .movHi rd rm => 0b01000110#8 ++ rd.extractLsb' 3 1 ++ rm ++ rd.extractLsb' 0 3
  | .bx rm sbz => 0b010001110#9 ++ rm ++ sbz
  | .blxReg rm sbz => 0b010001111#9 ++ rm ++ sbz
  | .ldrPc rd off => 0b01001#5 ++ rd ++ off
  | .strReg rd rn rm => 0b0101000#7 ++ rm ++ rn ++ rd
  | .strhReg rd rn rm => 0b0101001#7 ++ rm ++ rn ++ rd
  | .strbReg rd rn rm => 0b0101010#7 ++ rm ++ rn ++ rd
  | .ldrsbReg rd rn rm => 0b0101011#7 ++ rm ++ rn ++ rd
  | .ldrReg rd rn rm => 0b0101100#7 ++ rm ++ rn ++ rd
  | .ldrhReg rd rn rm => 0b0101101#7 ++ rm ++ rn ++ rd
  | .ldrbReg rd rn rm => 0b0101110#7 ++ rm ++ rn ++ rd
  | .ldrshReg rd rn rm => 0b0101111#7 ++ rm ++ rn ++ rd
  | .strImm rd rn off => 0b01100#5 ++ off ++ rn ++ rd
  | .ldrImm rd rn off => 0b01101#5 ++ off ++ rn ++ rd
  | .strbImm rd rn off => 0b01110#5 ++ off ++ rn ++ rd
  | .ldrbImm rd rn off => 0b01111#5 ++ off ++ rn ++ rd
  | .strhImm rd rn off => 0b10000#5 ++ off ++ rn ++ rd
  | .ldrhImm rd rn off => 0b10001#5 ++ off ++ rn ++ rd
  | .strSp rd off => 0b10010#5 ++ rd ++ off
  | .ldrSp rd off => 0b10011#5 ++ rd ++ off
  | .addPc rd imm => 0b10100#5 ++ rd ++ imm
  | .addRdSp rd imm => 0b10101#5 ++ rd ++ imm
  | .addSp imm => 0b101100000#9 ++ imm
  | .subSp imm => 0b101100001#9 ++ imm
  | .push lr list => 0b1011010#7 ++ BitVec.ofBool lr ++ list
  | .pop pc list => 0b1011110#7 ++ BitVec.ofBool pc ++ list
  | .stmia rn list => 0b11000#5 ++ rn ++ list
  | .ldmia rn list => 0b11001#5 ++ rn ++ list
  | .beq off => 0b11010000#8 ++ off
  | .bne off => 0b11010001#8 ++ off
  | .bcs off => 0b11010010#8 ++ off
  | .bcc off => 0b11010011#8 ++ off
  | .bmi off => 0b11010100#8 ++ off
  | .bpl off => 0b11010101#8 ++ off
  | .bvs off => 0b11010110#8 ++ off
  | .bvc off => 0b11010111#8 ++ off
  | .bhi off => 0b11011000#8 ++ off
  | .bls off => 0b11011001#8 ++ off
  | .bge off => 0b11011010#8 ++ off
  | .blt off => 0b11011011#8 ++ off
  | .bgt off => 0b11011100#8 ++ off
  | .ble off => 0b11011101#8 ++ off
  | .swi imm => 0b11011111#8 ++ imm
  | .b off => 0b11100#5 ++ off
  | .blxLabel offHigh => 0b11101#5 ++ offHigh ++ 0#1
  | .blFirst off => 0b11110#5 ++ off
  | .blSecond off => 0b11111#5 ++ off
  | .undB1 rest => 0b10110001#8 ++ rest
  | .undB2 rest => 0b1011001#7 ++ rest
  | .undB6 rest => 0b1011011#7 ++ rest
  | .undB8 rest => 0b101110#6 ++ rest
  | .refuseU9 rest => 0b10111110#8 ++ rest
  | .undBF rest => 0b10111111#8 ++ rest
  | .undDE rest => 0b11011110#8 ++ rest
  | .undE8 rest => 0b11101#5 ++ rest ++ 1#1

/-- The bytes of an instruction as memory holds them, the lowest address first. -/
def encodeBytes (e : Endian) (i : Instr) : List Byte :=
  [(splitHalf e (encode i)).1, (splitHalf e (encode i)).2]

/-- A row of spec/opcode_table.json: a halfword `h` belongs to it when `h AND mask = bits` (R90). -/
structure OpcodeRow where
  bits : Half
  mask : Half
deriving DecidableEq, Repr

/-- Does the halfword belong to the row? -/
def OpcodeRow.matchesHalf (r : OpcodeRow) (w : Half) : Bool := w &&& r.mask == r.bits

/-- The table's row of an instruction (its match and mask). -/
def opcodeRow : Instr → OpcodeRow
  | .lslImm _ _ _ => ⟨0x0000#16, 0xF800#16⟩
  | .lsrImm _ _ _ => ⟨0x0800#16, 0xF800#16⟩
  | .asrImm _ _ _ => ⟨0x1000#16, 0xF800#16⟩
  | .addReg _ _ _ => ⟨0x1800#16, 0xFE00#16⟩
  | .subReg _ _ _ => ⟨0x1A00#16, 0xFE00#16⟩
  | .addImm3 _ _ _ => ⟨0x1C00#16, 0xFE00#16⟩
  | .subImm3 _ _ _ => ⟨0x1E00#16, 0xFE00#16⟩
  | .movImm8 _ _ => ⟨0x2000#16, 0xF800#16⟩
  | .cmpImm8 _ _ => ⟨0x2800#16, 0xF800#16⟩
  | .addImm8 _ _ => ⟨0x3000#16, 0xF800#16⟩
  | .subImm8 _ _ => ⟨0x3800#16, 0xF800#16⟩
  | .andReg _ _ => ⟨0x4000#16, 0xFFC0#16⟩
  | .eorReg _ _ => ⟨0x4040#16, 0xFFC0#16⟩
  | .lslReg _ _ => ⟨0x4080#16, 0xFFC0#16⟩
  | .lsrReg _ _ => ⟨0x40C0#16, 0xFFC0#16⟩
  | .asrReg _ _ => ⟨0x4100#16, 0xFFC0#16⟩
  | .adc _ _ => ⟨0x4140#16, 0xFFC0#16⟩
  | .sbc _ _ => ⟨0x4180#16, 0xFFC0#16⟩
  | .rorReg _ _ => ⟨0x41C0#16, 0xFFC0#16⟩
  | .tst _ _ => ⟨0x4200#16, 0xFFC0#16⟩
  | .neg _ _ => ⟨0x4240#16, 0xFFC0#16⟩
  | .cmpReg _ _ => ⟨0x4280#16, 0xFFC0#16⟩
  | .cmn _ _ => ⟨0x42C0#16, 0xFFC0#16⟩
  | .orr _ _ => ⟨0x4300#16, 0xFFC0#16⟩
  | .mul _ _ => ⟨0x4340#16, 0xFFC0#16⟩
  | .bic _ _ => ⟨0x4380#16, 0xFFC0#16⟩
  | .mvn _ _ => ⟨0x43C0#16, 0xFFC0#16⟩
  | .addHi _ _ => ⟨0x4400#16, 0xFF00#16⟩
  | .cmpHi _ _ => ⟨0x4500#16, 0xFF00#16⟩
  | .movHi _ _ => ⟨0x4600#16, 0xFF00#16⟩
  | .bx _ _ => ⟨0x4700#16, 0xFF80#16⟩
  | .blxReg _ _ => ⟨0x4780#16, 0xFF80#16⟩
  | .ldrPc _ _ => ⟨0x4800#16, 0xF800#16⟩
  | .strReg _ _ _ => ⟨0x5000#16, 0xFE00#16⟩
  | .strhReg _ _ _ => ⟨0x5200#16, 0xFE00#16⟩
  | .strbReg _ _ _ => ⟨0x5400#16, 0xFE00#16⟩
  | .ldrsbReg _ _ _ => ⟨0x5600#16, 0xFE00#16⟩
  | .ldrReg _ _ _ => ⟨0x5800#16, 0xFE00#16⟩
  | .ldrhReg _ _ _ => ⟨0x5A00#16, 0xFE00#16⟩
  | .ldrbReg _ _ _ => ⟨0x5C00#16, 0xFE00#16⟩
  | .ldrshReg _ _ _ => ⟨0x5E00#16, 0xFE00#16⟩
  | .strImm _ _ _ => ⟨0x6000#16, 0xF800#16⟩
  | .ldrImm _ _ _ => ⟨0x6800#16, 0xF800#16⟩
  | .strbImm _ _ _ => ⟨0x7000#16, 0xF800#16⟩
  | .ldrbImm _ _ _ => ⟨0x7800#16, 0xF800#16⟩
  | .strhImm _ _ _ => ⟨0x8000#16, 0xF800#16⟩
  | .ldrhImm _ _ _ => ⟨0x8800#16, 0xF800#16⟩
  | .strSp _ _ => ⟨0x9000#16, 0xF800#16⟩
  | .ldrSp _ _ => ⟨0x9800#16, 0xF800#16⟩
  | .addPc _ _ => ⟨0xA000#16, 0xF800#16⟩
  | .addRdSp _ _ => ⟨0xA800#16, 0xF800#16⟩
  | .addSp _ => ⟨0xB000#16, 0xFF80#16⟩
  | .subSp _ => ⟨0xB080#16, 0xFF80#16⟩
  | .push _ _ => ⟨0xB400#16, 0xFE00#16⟩
  | .pop _ _ => ⟨0xBC00#16, 0xFE00#16⟩
  | .stmia _ _ => ⟨0xC000#16, 0xF800#16⟩
  | .ldmia _ _ => ⟨0xC800#16, 0xF800#16⟩
  | .beq _ => ⟨0xD000#16, 0xFF00#16⟩
  | .bne _ => ⟨0xD100#16, 0xFF00#16⟩
  | .bcs _ => ⟨0xD200#16, 0xFF00#16⟩
  | .bcc _ => ⟨0xD300#16, 0xFF00#16⟩
  | .bmi _ => ⟨0xD400#16, 0xFF00#16⟩
  | .bpl _ => ⟨0xD500#16, 0xFF00#16⟩
  | .bvs _ => ⟨0xD600#16, 0xFF00#16⟩
  | .bvc _ => ⟨0xD700#16, 0xFF00#16⟩
  | .bhi _ => ⟨0xD800#16, 0xFF00#16⟩
  | .bls _ => ⟨0xD900#16, 0xFF00#16⟩
  | .bge _ => ⟨0xDA00#16, 0xFF00#16⟩
  | .blt _ => ⟨0xDB00#16, 0xFF00#16⟩
  | .bgt _ => ⟨0xDC00#16, 0xFF00#16⟩
  | .ble _ => ⟨0xDD00#16, 0xFF00#16⟩
  | .swi _ => ⟨0xDF00#16, 0xFF00#16⟩
  | .b _ => ⟨0xE000#16, 0xF800#16⟩
  | .blxLabel _ => ⟨0xE800#16, 0xF801#16⟩
  | .blFirst _ => ⟨0xF000#16, 0xF800#16⟩
  | .blSecond _ => ⟨0xF800#16, 0xF800#16⟩
  | .undB1 _ => ⟨0xB100#16, 0xFF00#16⟩
  | .undB2 _ => ⟨0xB200#16, 0xFE00#16⟩
  | .undB6 _ => ⟨0xB600#16, 0xFE00#16⟩
  | .undB8 _ => ⟨0xB800#16, 0xFC00#16⟩
  | .refuseU9 _ => ⟨0xBE00#16, 0xFF00#16⟩
  | .undBF _ => ⟨0xBF00#16, 0xFF00#16⟩
  | .undDE _ => ⟨0xDE00#16, 0xFF00#16⟩
  | .undE8 _ => ⟨0xE801#16, 0xF801#16⟩

/-- The rows of the opcode table, in the table's order, in three parts. -/
def opcodeRows1 : List OpcodeRow := [
  ⟨0x0000#16, 0xF800#16⟩, ⟨0x0800#16, 0xF800#16⟩, ⟨0x1000#16, 0xF800#16⟩, ⟨0x1800#16, 0xFE00#16⟩,
  ⟨0x1A00#16, 0xFE00#16⟩, ⟨0x1C00#16, 0xFE00#16⟩, ⟨0x1E00#16, 0xFE00#16⟩, ⟨0x2000#16, 0xF800#16⟩,
  ⟨0x2800#16, 0xF800#16⟩, ⟨0x3000#16, 0xF800#16⟩, ⟨0x3800#16, 0xF800#16⟩, ⟨0x4000#16, 0xFFC0#16⟩,
  ⟨0x4040#16, 0xFFC0#16⟩, ⟨0x4080#16, 0xFFC0#16⟩, ⟨0x40C0#16, 0xFFC0#16⟩, ⟨0x4100#16, 0xFFC0#16⟩,
  ⟨0x4140#16, 0xFFC0#16⟩, ⟨0x4180#16, 0xFFC0#16⟩, ⟨0x41C0#16, 0xFFC0#16⟩, ⟨0x4200#16, 0xFFC0#16⟩,
  ⟨0x4240#16, 0xFFC0#16⟩, ⟨0x4280#16, 0xFFC0#16⟩, ⟨0x42C0#16, 0xFFC0#16⟩, ⟨0x4300#16, 0xFFC0#16⟩,
  ⟨0x4340#16, 0xFFC0#16⟩, ⟨0x4380#16, 0xFFC0#16⟩, ⟨0x43C0#16, 0xFFC0#16⟩, ⟨0x4400#16, 0xFF00#16⟩]

/-- Rows 28 to 55. -/
def opcodeRows2 : List OpcodeRow := [
  ⟨0x4500#16, 0xFF00#16⟩, ⟨0x4600#16, 0xFF00#16⟩, ⟨0x4700#16, 0xFF80#16⟩, ⟨0x4780#16, 0xFF80#16⟩,
  ⟨0x4800#16, 0xF800#16⟩, ⟨0x5000#16, 0xFE00#16⟩, ⟨0x5200#16, 0xFE00#16⟩, ⟨0x5400#16, 0xFE00#16⟩,
  ⟨0x5600#16, 0xFE00#16⟩, ⟨0x5800#16, 0xFE00#16⟩, ⟨0x5A00#16, 0xFE00#16⟩, ⟨0x5C00#16, 0xFE00#16⟩,
  ⟨0x5E00#16, 0xFE00#16⟩, ⟨0x6000#16, 0xF800#16⟩, ⟨0x6800#16, 0xF800#16⟩, ⟨0x7000#16, 0xF800#16⟩,
  ⟨0x7800#16, 0xF800#16⟩, ⟨0x8000#16, 0xF800#16⟩, ⟨0x8800#16, 0xF800#16⟩, ⟨0x9000#16, 0xF800#16⟩,
  ⟨0x9800#16, 0xF800#16⟩, ⟨0xA000#16, 0xF800#16⟩, ⟨0xA800#16, 0xF800#16⟩, ⟨0xB000#16, 0xFF80#16⟩,
  ⟨0xB080#16, 0xFF80#16⟩, ⟨0xB400#16, 0xFE00#16⟩, ⟨0xBC00#16, 0xFE00#16⟩, ⟨0xC000#16, 0xF800#16⟩]

/-- Rows 56 to 83. -/
def opcodeRows3 : List OpcodeRow := [
  ⟨0xC800#16, 0xF800#16⟩, ⟨0xD000#16, 0xFF00#16⟩, ⟨0xD100#16, 0xFF00#16⟩, ⟨0xD200#16, 0xFF00#16⟩,
  ⟨0xD300#16, 0xFF00#16⟩, ⟨0xD400#16, 0xFF00#16⟩, ⟨0xD500#16, 0xFF00#16⟩, ⟨0xD600#16, 0xFF00#16⟩,
  ⟨0xD700#16, 0xFF00#16⟩, ⟨0xD800#16, 0xFF00#16⟩, ⟨0xD900#16, 0xFF00#16⟩, ⟨0xDA00#16, 0xFF00#16⟩,
  ⟨0xDB00#16, 0xFF00#16⟩, ⟨0xDC00#16, 0xFF00#16⟩, ⟨0xDD00#16, 0xFF00#16⟩, ⟨0xDF00#16, 0xFF00#16⟩,
  ⟨0xE000#16, 0xF800#16⟩, ⟨0xE800#16, 0xF801#16⟩, ⟨0xF000#16, 0xF800#16⟩, ⟨0xF800#16, 0xF800#16⟩,
  ⟨0xB100#16, 0xFF00#16⟩, ⟨0xB200#16, 0xFE00#16⟩, ⟨0xB600#16, 0xFE00#16⟩, ⟨0xB800#16, 0xFC00#16⟩,
  ⟨0xBE00#16, 0xFF00#16⟩, ⟨0xBF00#16, 0xFF00#16⟩, ⟨0xDE00#16, 0xFF00#16⟩, ⟨0xE801#16, 0xF801#16⟩]

/-- All 84 rows of the opcode table (R81). -/
def opcodeRows : List OpcodeRow := opcodeRows1 ++ opcodeRows2 ++ opcodeRows3

/-- The instruction read from a table word: the low `nbits` bits of `w`, laid out as the two bytes of a halfword in
the default byte order and decoded. -/
def decodeTableWord (nbits w : Nat) : Option Instr :=
  let h := BitVec.ofNat 16 (w % 2 ^ nbits)
  match decode .little [(splitHalf .little h).1, (splitHalf .little h).2] with
  | .ok (i, _) => some i
  | .error _ => none

end Sys2Proof
end

