-- ==== Sys2Proof/Machine/State.lean ====
section
/-! DEFINITION. Everything the spec gives the machine, as plain data (10_state.md), why a step stops, and the state
after reset (10_state.md R37, 70_reset_and_hazards.md R310). -/

namespace Sys2Proof.Machine

/-- The six copies of r13 and r14 (10_state.md R24): User and System share one. -/
inductive Bank where
  | usr
  | fiq
  | irq
  | svc
  | abt
  | und
deriving DecidableEq, Repr, Inhabited

/-- One register with six copies (R24). -/
structure BankedWord where
  usr : Word
  fiq : Word
  irq : Word
  svc : Word
  abt : Word
  und : Word
deriving DecidableEq, Repr, Inhabited

/-- The name of one physical general register (R24). r15 is not among them: it is the field `pc` of State. -/
inductive PhysReg where
  /-- r0 to r7: one copy. -/
  | lo (n : LoReg)
  /-- r8 to r12 of every mode but FIQ: `mid k` is r(8+k). -/
  | mid (n : Fin 5)
  /-- r8_fiq to r12_fiq: `midFiq k` is r(8+k)_fiq. -/
  | midFiq (n : Fin 5)
  /-- r13 (SP) of a bank. -/
  | sp (b : Bank)
  /-- r14 (LR) of a bank. -/
  | lr (b : Bank)
deriving DecidableEq, Repr

/-- The thirty physical general registers (R20, R24). -/
structure RegFile where
  /-- r0 to r7. -/
  lo : Vector Word 8
  /-- r8 to r12. -/
  mid : Vector Word 5
  /-- r8_fiq to r12_fiq. -/
  midFiq : Vector Word 5
  /-- r13: r13_usr, r13_fiq, r13_irq, r13_svc, r13_abt, r13_und. -/
  sp : BankedWord
  /-- r14: r14_usr, r14_fiq, r14_irq, r14_svc, r14_abt, r14_und. -/
  lr : BankedWord
deriving DecidableEq, Repr

/-- A program status register, field by field (R29): the layout of the CPSR and of every SPSR (R34). No Thumb
instruction reads or writes one as a word (R29); `PSR.toWord` of Machine/Flags.lean gives the word. M holds legal modes
only: DEDUCED (R272; log entry 17). -/
structure PSR where
  /-- Bit 31, negative. -/
  n : Bool
  /-- Bit 30, zero. -/
  z : Bool
  /-- Bit 29, carry. -/
  c : Bool
  /-- Bit 28, signed overflow. -/
  v : Bool
  /-- Bits 27 to 8, reserved: only ever copied (U16). -/
  reserved : BitVec 20
  /-- Bit 7: 1 = IRQ disabled. -/
  i : Bool
  /-- Bit 6: 1 = FIQ disabled. -/
  f : Bool
  /-- Bit 5: 1 = Thumb state. -/
  t : Bool
  /-- Bits 4 to 0: the processor mode. -/
  m : Mode
deriving DecidableEq, Repr, Inhabited

/-- The five saved program status registers (R24, R34). -/
structure SpsrFile where
  fiq : PSR
  irq : PSR
  svc : PSR
  abt : PSR
  und : PSR
deriving DecidableEq, Repr, Inhabited

/-- The exceptions of 60_exceptions.md R271. The payload is the label of the end state (R271): it is held in no
register. -/
inductive Exc where
  | reset
  | undefinedInstruction
  | softwareInterrupt (imm : BitVec 8)
  | prefetchAbort (a : Word)
  | dataAbort (a : Word)
  | irq
  | fiq
deriving DecidableEq, Repr

/-- The causes of `LeftThumb(cause, state)` (D7). -/
inductive Cause where
  | bx
  | blx
  | pop
  | exception (e : Exc)
deriving DecidableEq, Repr

/-- How a run ended (00_scope.md R7, 41_swi.md R141, D16). -/
inductive RunEnd where
  /-- `LeftThumb(cause)`: T has been cleared; what follows is ARM code, out of scope (R6, R7). -/
  | leftThumb (c : Cause)
  /-- `Exited`: SWI 0x11 under `SWI_ENV = semihost` (R141). -/
  | exited
deriving DecidableEq, Repr

/-- Memory contents: the bytes that differ from what an unlisted address reads as, addresses strictly rising. -/
abbrev Memory := List Host.Cell

/-- The machine. -/
structure State where
  /-- r0 to r14 of every bank (R20, R24). -/
  regs : RegFile
  /-- The address of the instruction being executed (R25). -/
  pc : Word
  /-- The current program status register (R29). -/
  cpsr : PSR
  /-- SPSR_fiq, SPSR_irq, SPSR_svc, SPSR_abt, SPSR_und (R34). -/
  spsr : SpsrFile
  /-- The contents of the one address space (20_memory.md R50). -/
  mem : Memory
  /-- The parameters of R8: fixed for a run. -/
  params : Params
  /-- The schedule of the inputs IRQ, FIQ and RESET (R8, R289). -/
  events : Events
  /-- The number of steps taken: the argument of the oracles of R8. -/
  stepNo : Nat
  /-- Whether the run has ended, and how (R7, D16). -/
  ended : Option RunEnd
  /-- The run's output stream under `SWI_ENV = semihost` (R141), first byte first. -/
  output : List Byte
  /-- The model's own counter: how many free values have been drawn (Config.freeBit, freeWord, freeMode; log entries 9,
  10). -/
  freeIdx : Nat
deriving DecidableEq, Repr

/-- The states that have no successor (00_scope.md R7, U20, D16): `step` raises these, no instruction does. Each is
safe: the model stops where the spec defines no step (DEDUCED; log entry 11). -/
inductive Fault where
  /-- Raised by `step` in ARM state (T = 0) when the run has not left Thumb state itself, as after reset (R37).
  Safe: ARM instructions are out of scope (R6). -/
  | armState
  /-- Raised by `step` in an end state `LeftThumb(cause)` (R7, U20). Safe. -/
  | leftThumb (c : Cause)
  /-- Raised by `step` in the end state `Exited` (R141). Safe. -/
  | exited
deriving DecidableEq, Repr

/-- `REFUSE(U<n>)` (00_scope.md R10, 93_implementation_defined.md U): the encoding or operand combination has no
defined result. All are safe: the model stops and asserts nothing about the state after (D14). -/
inductive Refusal where
  /-- An instruction that has no meaning in this model yet: raised by `exec` alone. Safe. -/
  | notModelled (mnemonic : String)
  /-- U1: DP6 ADD, CMP or MOV with both registers Lo. Raised by those three. Safe. -/
  | bothLo
  /-- U2: B4 with `insn[2:0]` not 000. Raised by BX, BLX Rm. Safe. -/
  | sbzNonzero
  /-- U3: BLX Rm with Rm = r15. Raised by BLX Rm. Safe. -/
  | blxPc
  /-- U4: BX or BLX Rm to ARM state at an address with bits [1:0] = 10. Raised by those two. Safe. -/
  | armTargetUnaligned (target : Word)
  /-- U8: BLX Rm when `ARCH = v4T`. Raised by BLX Rm. Safe. -/
  | blxRegV4T
  /-- U9: 0xBE00 to 0xBEFF, the space of the missing section 7.8. Raised by REFUSE_U9. Safe. -/
  | section78Space
  /-- U10: MUL with Rd = Rm when `MUL_SAME_REG = refuse`. Raised by MUL. Safe. -/
  | mulSameReg
  /-- U12: LDMIA or STMIA with the base in the register list. Raised by those two. Safe. -/
  | baseInList
  /-- U13: a multiple transfer with an empty register list. Raised by LDMIA, STMIA, PUSH, POP. Safe. -/
  | emptyList
  /-- U14: a misaligned data access when `ALIGN_POLICY = refuse`. Raised by loads and stores. Safe. -/
  | misaligned (a : Word)
  /-- U15: v5T POP with pc loading a value with bits [1:0] = 10. Raised by POP. Safe. -/
  | popTargetUnaligned (target : Word)
  /-- U17: DP6 CMP with r15 as an operand. Raised by CMP (Hi). Safe. -/
  | cmpHiPc
  /-- U19: sequential execution from 0xFFFFFFFE to 0 (R28). Raised by every instruction that does not branch. Safe. -/
  | sequentialWrap
  /-- R141: a SWI number the semihost environment does not serve. Raised by SWI under `SWI_ENV = semihost`. Safe. -/
  | semihostCall (imm : BitVec 8)
deriving DecidableEq, Repr

/-- What executing an instruction gives. -/
abbrev Result := Host.Outcome State Fault Refusal

/-- Every copy of a banked register zero. -/
def BankedWord.zero : BankedWord := ⟨0#32, 0#32, 0#32, 0#32, 0#32, 0#32⟩

/-- Every general register zero: DESIGN CHOICE, unsafe (R37 gives no value; log entry 1). -/
def RegFile.zero : RegFile :=
  ⟨#v[0#32, 0#32, 0#32, 0#32, 0#32, 0#32, 0#32, 0#32], #v[0#32, 0#32, 0#32, 0#32, 0#32],
    #v[0#32, 0#32, 0#32, 0#32, 0#32], .zero, .zero⟩

/-- The value every SPSR has at reset: DESIGN CHOICE, unsafe (R37 gives none; log entry 2). -/
def PSR.zero : PSR := ⟨false, false, false, false, 0#20, false, false, false, .user⟩

/-- The CPSR after reset (R37): Supervisor mode, I = F = 1, T = 0; the flags and bits 27 to 8 zero, a DESIGN CHOICE,
unsafe (log entry 2). -/
def PSR.reset : PSR := ⟨false, false, false, false, 0#20, true, true, false, .supervisor⟩

/-- The admission of memory while no launch has given `Mem`: every byte readable and writable, none fetchable (no
program is there yet). DESIGN CHOICE, unsafe (R8 and D4 give none; log entry 4). -/
def noLaunchMap : MemMap := ⟨[⟨0, 2 ^ 32⟩], [⟨0, 2 ^ 32⟩], []⟩

/-- The machine right after reset (R37, R310): ARM state, Supervisor mode, both interrupts disabled, pc at the reset
vector, the parameters at R8's defaults, no event scheduled. What R37 leaves unspecified is zero (log entries 1, 2,
3). The next instruction is an ARM one, so a Thumb program is reached from here only by a launch (log entry 5). -/
def State.reset : State where
  regs := .zero
  pc := 0x00000000#32
  cpsr := .reset
  spsr := ⟨.zero, .zero, .zero, .zero, .zero⟩
  mem := []
  params := ⟨.v5T, .little, .fault, .architectural, .refuse, noLaunchMap⟩
  events := ⟨[], [], []⟩
  stepNo := 0
  ended := none
  output := []
  freeIdx := 0

end Sys2Proof.Machine
end

