-- ==== Sys2Proof/Machine/Memory.lean ====
section
/-! DEFINITION. The operations on memory: the canonical list of bytes, the access primitives of 20_memory.md (byte
order R52, alignment R53, admission R55 to R57, R66). -/

namespace Sys2Proof.Machine

/-- What an address that memory does not list reads as. DESIGN CHOICE, unsafe (R37, D4 give none; log entry 3). -/
def unlistedByte : Byte := 0x00#8

/-- The canonical form of a memory whose addresses are all at least `from'`: addresses strictly rising and below 2^32
(R50), no entry equal to what an unlisted address reads as. -/
def Memory.wfFrom (from' : Nat) : Memory → Bool
  | [] => true
  | (a, b) :: rest => decide (from' ≤ a) && decide (a < 2 ^ 32) && (b != unlistedByte) && Memory.wfFrom (a + 1) rest

/-- The canonical form of memory: equal memories are equal lists. -/
def Memory.wf (m : Memory) : Bool := Memory.wfFrom 0 m

/-- The byte at an address. -/
def readByte : Memory → Nat → Byte
  | [], _ => unlistedByte
  | (k, b) :: rest, a => if a = k then b else readByte rest a

/-- A cell in front of a memory, left out when it holds what an unlisted address reads as. -/
def consCell (a : Nat) (b : Byte) (m : Memory) : Memory :=
  if b = unlistedByte then m else (a, b) :: m

/-- Memory with the byte at one address replaced; the canonical form is kept. -/
def writeByte : Memory → Nat → Byte → Memory
  | [], a, b => consCell a b []
  | (k, c) :: rest, a, b =>
    if a < k then consCell a b ((k, c) :: rest)
    else if a = k then consCell a b rest
    else (k, c) :: writeByte rest a b

/-- A 16-bit value at `a`, `a+1` (modulo 2^32, R51) in the byte order (R52). -/
def readHalf (e : Endian) (m : Memory) (a : Word) : Half :=
  joinHalf e (readByte m a.toNat) (readByte m (a + 1#32).toNat)

/-- A 32-bit value at `a` to `a+3` (modulo 2^32, R51) in the byte order (R52). -/
def readWord (e : Endian) (m : Memory) (a : Word) : Word :=
  let b0 := readByte m a.toNat
  let b1 := readByte m (a + 1#32).toNat
  let b2 := readByte m (a + 2#32).toNat
  let b3 := readByte m (a + 3#32).toNat
  match e with
  | .little => b3 ++ b2 ++ b1 ++ b0
  | .big => b0 ++ b1 ++ b2 ++ b3

/-- Bits `8k+7` to `8k` of a word. -/
def byteOf (v : Word) (k : Nat) : Byte := v.extractLsb' (8 * k) 8

/-- `MemWrite(a, 1, v)` (R56): the low byte of `v`. -/
def writeOne (m : Memory) (a v : Word) : Memory := writeByte m a.toNat (byteOf v 0)

/-- `MemWrite(a, 2, v)` (R56): the low half of `v` in the byte order. -/
def writeHalf (e : Endian) (m : Memory) (a v : Word) : Memory :=
  match e with
  | .little => writeByte (writeByte m a.toNat (byteOf v 0)) (a + 1#32).toNat (byteOf v 1)
  | .big => writeByte (writeByte m a.toNat (byteOf v 1)) (a + 1#32).toNat (byteOf v 0)

/-- `MemWrite(a, 4, v)` (R56): the word in the byte order. -/
def writeWord (e : Endian) (m : Memory) (a v : Word) : Memory :=
  match e with
  | .little =>
    writeByte (writeByte (writeByte (writeByte m a.toNat (byteOf v 0)) (a + 1#32).toNat (byteOf v 1))
      (a + 2#32).toNat (byteOf v 2)) (a + 3#32).toNat (byteOf v 3)
  | .big =>
    writeByte (writeByte (writeByte (writeByte m a.toNat (byteOf v 3)) (a + 1#32).toNat (byteOf v 2))
      (a + 2#32).toNat (byteOf v 1)) (a + 3#32).toNat (byteOf v 0)

/-- Store words at the addresses paired with them, one by one in the list's order (44_load_store_multiple.md
R250(c)). -/
def writeWords (e : Endian) : Memory → List (Word × Word) → Memory
  | m, [] => m
  | m, (a, v) :: rest => writeWords e (writeWord e m a v) rest

/-- The byte addresses of an access of `n` bytes at `a`: `a`, `a+1`, ... modulo 2^32 (R51). -/
def byteAddrs (a : Word) : Nat → List Nat
  | 0 => []
  | n + 1 => a.toNat :: byteAddrs (a + 1#32) n

/-- Does the region hold the address? -/
def inRegion (a : Nat) (r : Region) : Bool := decide (r.base ≤ a) && decide (a < r.base + r.size)

/-- Is the address in a set given as regions? -/
def inRegions (rs : List Region) (a : Nat) : Bool := rs.any (inRegion a)

/-- Do two regions share no byte? -/
def regionsApart (r q : Region) : Bool :=
  decide (r.base + r.size ≤ q.base) || decide (q.base + q.size ≤ r.base) || decide (r.size = 0) || decide (q.size = 0)

/-- Do two sets of bytes given as regions share no byte? -/
def setsApart (rs qs : List Region) : Bool := rs.all fun r => qs.all fun q => regionsApart r q

/-- The three kinds of access that `Mem` admits (R8). -/
inductive AccessKind where
  | read
  | write
  | fetch
deriving DecidableEq, Repr

/-- Is the byte admitted for the kind of access (R55, R56, R57)? A byte of the fetchable set fails admission for write
(R66), so the two sets are disjoint however the regions were given: DEDUCED, safe (log entry 8). -/
def admitsByte (mm : MemMap) (k : AccessKind) (a : Nat) : Bool :=
  match k with
  | .read => inRegions mm.readable a
  | .write => inRegions mm.writable a && !inRegions mm.fetchable a
  | .fetch => inRegions mm.fetchable a

/-- Are all `n` bytes at `a` admitted? -/
def admits (mm : MemMap) (k : AccessKind) (a : Word) (n : Nat) : Bool := (byteAddrs a n).all (admitsByte mm k)

/-- What the checks before a data access say (R53, R55, R56). -/
inductive Access where
  /-- The access may be made. -/
  | granted
  /-- `raise DataAbort(a)`. -/
  | aborts (a : Word)
  /-- `REFUSE(U14)`. -/
  | refuses (a : Word)
deriving DecidableEq, Repr

/-- The checks of `MemRead` and `MemWrite` in their order (R55): alignment (R53), then admission. -/
def checkAccess (s : State) (k : AccessKind) (a : Word) (n : Nat) : Access :=
  if a.toNat % n = 0 then
    if admits s.params.mem k a n then .granted else .aborts a
  else
    match s.params.alignPolicy with
    | .fault => .aborts a
    | .refuse => .refuses a

/-- The checks of a multiple transfer (R250(e)): every word address in order; the first failure counts (log entry
15). -/
def checkWords (s : State) (k : AccessKind) : List Word → Access
  | [] => .granted
  | a :: rest =>
    match checkAccess s k a 4 with
    | .granted => checkWords s k rest
    | bad => bad

/-- The addresses of `n` words from `a` upwards, modulo 2^32 (R250(b), D11). -/
def wordAddrs (a : Word) : Nat → List Word
  | 0 => []
  | n + 1 => a :: wordAddrs (a + 4#32) n

/-- `Fetch(pc)` (R57): the halfword at `pc` if both its bytes are admitted for fetch. -/
def fetchHalf (s : State) : Option Half :=
  if admits s.params.mem .fetch s.pc 2 then some (readHalf s.params.endian s.mem s.pc) else none

end Sys2Proof.Machine
end

