-- ==== Sys2Proof/Machine/Flags.lean ====
section
/-! DEFINITION. The arithmetic with its flags (00_scope.md R10 to R12), the condition codes (30_encoding.md R95) and
the status register as a word (10_state.md R29). -/

namespace Sys2Proof.Machine

/-- The result of `AddWithCarry` (R11). -/
structure SumResult where
  result : Word
  carry : Bool
  overflow : Bool
deriving DecidableEq, Repr

/-- `AddWithCarry(a, b, c)` (R11). -/
def addWithCarry (a b : Word) (c : Bool) : SumResult :=
  let usum : Nat := a.toNat + b.toNat + c.toNat
  let ssum : Int := a.toInt + b.toInt + (c.toNat : Int)
  let result := BitVec.ofNat 32 usum
  ⟨result, decide (2 ^ 32 ≤ usum), decide (result.toInt ≠ ssum)⟩

/-- Addition `a + b` (R11). -/
def sumOf (a b : Word) : SumResult := addWithCarry a b false

/-- Subtraction `a - b` = `AddWithCarry(a, NOT(b), 1)` (R11): carry 1 means no borrow. -/
def differenceOf (a b : Word) : SumResult := addWithCarry a (~~~b) true

/-- A shifter's result: the value, and the carry-out where there is one (`none`: C unchanged, R150). -/
structure ShiftResult where
  result : Word
  carry : Option Bool
deriving DecidableEq, Repr

/-- `LSL_C(v, n)`, n at least 1 (R12). -/
def lslC (v : Word) (n : Nat) : Word × Bool :=
  if n < 32 then (v <<< n, v.getLsbD (32 - n))
  else if n = 32 then (0#32, v.getLsbD 0)
  else (0#32, false)

/-- `LSR_C(v, n)`, n at least 1 (R12). -/
def lsrC (v : Word) (n : Nat) : Word × Bool :=
  if n < 32 then (v >>> n, v.getLsbD (n - 1))
  else if n = 32 then (0#32, v.getLsbD 31)
  else (0#32, false)

/-- `ASR_C(v, n)`, n at least 1 (R12). -/
def asrC (v : Word) (n : Nat) : Word × Bool :=
  if n < 32 then (v.sshiftRight n, v.getLsbD (n - 1))
  else (if v.getLsbD 31 then 0xFFFFFFFF#32 else 0#32, v.getLsbD 31)

/-- `ROR_C(v, n)`, n at least 1 (R12). -/
def rorC (v : Word) (n : Nat) : Word × Bool :=
  let k := n % 32
  if k = 0 then (v, v.getLsbD 31)
  else ((v >>> k) ||| (v <<< (32 - k)), v.getLsbD (k - 1))

/-- A shift by a given amount; amount 0 is "no shift": the value itself, C unchanged (R159, R164 to R166, R169). -/
def shiftBy (op : Word → Nat → Word × Bool) (v : Word) (n : Nat) : ShiftResult :=
  if n = 0 then ⟨v, none⟩ else ⟨(op v n).1, some (op v n).2⟩

/-- The amount of LSR and ASR by an immediate: the field value 0 means 32 (R160, R161). -/
def immShiftAmount (sh : BitVec 5) : Nat := if sh = 0#5 then 32 else sh.toNat

/-- `setNZ(r)` (R10). -/
def PSR.withNZ (p : PSR) (r : Word) : PSR := { p with n := r.msb, z := decide (r = 0#32) }

/-- `CPSR.C <- c`. -/
def PSR.withC (p : PSR) (c : Bool) : PSR := { p with c := c }

/-- `setNZ(r); CPSR.C <- c; CPSR.V <- v` of an `AddWithCarry` result (R150). -/
def PSR.withSum (p : PSR) (r : SumResult) : PSR :=
  { p with n := r.result.msb, z := decide (r.result = 0#32), c := r.carry, v := r.overflow }

/-- `setNZ(r)`, and `CPSR.C <- c` where the shift has a carry-out (R150). -/
def PSR.withShift (p : PSR) (r : ShiftResult) : PSR :=
  match r.carry with
  | some c => (p.withNZ r.result).withC c
  | none => p.withNZ r.result

/-- `ConditionPassed(cond)` (R95). -/
def conditionPassed (c : Cond) (p : PSR) : Bool :=
  match c with
  | .eq => p.z
  | .ne => !p.z
  | .cs => p.c
  | .cc => !p.c
  | .mi => p.n
  | .pl => !p.n
  | .vs => p.v
  | .vc => !p.v
  | .hi => p.c && !p.z
  | .ls => !p.c || p.z
  | .ge => p.n == p.v
  | .lt => p.n != p.v
  | .gt => !p.z && (p.n == p.v)
  | .le => p.z || (p.n != p.v)

/-- The number of a mode in CPSR.M (60_exceptions.md R272). -/
def modeBits (m : Mode) : BitVec 5 :=
  match m with
  | .user => 0b10000#5
  | .fiq => 0b10001#5
  | .irq => 0b10010#5
  | .supervisor => 0b10011#5
  | .abort => 0b10111#5
  | .undefined => 0b11011#5
  | .system => 0b11111#5

/-- The status register as a word: N 31, Z 30, C 29, V 28, reserved 27 to 8, I 7, F 6, T 5, M 4 to 0 (R29). -/
def PSR.toWord (p : PSR) : Word :=
  BitVec.ofBool p.n ++ BitVec.ofBool p.z ++ BitVec.ofBool p.c ++ BitVec.ofBool p.v ++ p.reserved
    ++ BitVec.ofBool p.i ++ BitVec.ofBool p.f ++ BitVec.ofBool p.t ++ modeBits p.m

end Sys2Proof.Machine
end

