-- ==== Sys2Proof/Machine/Ops.lean ====
section
/-! DEFINITION. The named operations over registers and state: the banks (10_state.md R24), reading and writing
registers (R10, R26, R27), moving on (R25, R28), interworking branches (40_branch.md R125), guarded accesses (R55),
TAKING AN EXCEPTION (60_exceptions.md R275) and returning from one (R283, R284), the events before a fetch (R285). -/

namespace Sys2Proof.Machine

/-! Registers and banks. -/

/-- The copy of r13 and r14 that a mode uses (R24, R272). -/
def bankOf (m : Mode) : Bank :=
  match m with
  | .user => .usr
  | .fiq => .fiq
  | .irq => .irq
  | .supervisor => .svc
  | .abort => .abt
  | .undefined => .und
  | .system => .usr

/-- One copy of a banked register. -/
def BankedWord.get (w : BankedWord) (b : Bank) : Word :=
  match b with
  | .usr => w.usr
  | .fiq => w.fiq
  | .irq => w.irq
  | .svc => w.svc
  | .abt => w.abt
  | .und => w.und

/-- A banked register with one copy replaced. -/
def BankedWord.set (w : BankedWord) (b : Bank) (v : Word) : BankedWord :=
  match b with
  | .usr => { w with usr := v }
  | .fiq => { w with fiq := v }
  | .irq => { w with irq := v }
  | .svc => { w with svc := v }
  | .abt => { w with abt := v }
  | .und => { w with und := v }

/-- The value of a physical register. -/
def RegFile.get (r : RegFile) (p : PhysReg) : Word :=
  match p with
  | .lo n => r.lo[n.toNat]
  | .mid k => r.mid[k]
  | .midFiq k => r.midFiq[k]
  | .sp b => r.sp.get b
  | .lr b => r.lr.get b

/-- The registers with one physical register replaced. -/
def RegFile.set (r : RegFile) (p : PhysReg) (v : Word) : RegFile :=
  match p with
  | .lo n => { r with lo := r.lo.set n.toNat v n.isLt }
  | .mid k => { r with mid := r.mid.set k.val v k.isLt }
  | .midFiq k => { r with midFiq := r.midFiq.set k.val v k.isLt }
  | .sp b => { r with sp := r.sp.set b v }
  | .lr b => { r with lr := r.lr.set b v }

/-- The physical register that `x[i]` names in a mode (R10, R24); `none` is r15. -/
def physOf (m : Mode) (i : Reg) : Option PhysReg :=
  if i.toNat < 8 then some (.lo (i.setWidth 3))
  else if h : i.toNat < 13 then
    if m = .fiq then some (.midFiq ⟨i.toNat - 8, by omega⟩) else some (.mid ⟨i.toNat - 8, by omega⟩)
  else if i = 13#4 then some (.sp (bankOf m))
  else if i = 14#4 then some (.lr (bankOf m))
  else none

/-- The SPSR of a bank; User and System have none (R24). -/
def SpsrFile.get (f : SpsrFile) (b : Bank) : Option PSR :=
  match b with
  | .usr => none
  | .fiq => some f.fiq
  | .irq => some f.irq
  | .svc => some f.svc
  | .abt => some f.abt
  | .und => some f.und

/-- The SPSRs with that of a bank replaced. -/
def SpsrFile.set (f : SpsrFile) (b : Bank) (p : PSR) : SpsrFile :=
  match b with
  | .usr => f
  | .fiq => { f with fiq := p }
  | .irq => { f with irq := p }
  | .svc => { f with svc := p }
  | .abt => { f with abt := p }
  | .und => { f with und := p }

/-! The updates of State: every change an instruction makes is one of these. -/

/-- Write a physical register. -/
def State.setPhys (s : State) (p : PhysReg) (v : Word) : State := { s with regs := s.regs.set p v }

/-- Write the program counter. -/
def State.setPc (s : State) (v : Word) : State := { s with pc := v }

/-- Write the status register. -/
def State.setCpsr (s : State) (p : PSR) : State := { s with cpsr := p }

/-- Write an exception mode's SPSR. -/
def State.setSpsr (s : State) (b : Bank) (p : PSR) : State := { s with spsr := s.spsr.set b p }

/-- Replace the memory contents. -/
def State.setMem (s : State) (m : Memory) : State := { s with mem := m }

/-- End the run. -/
def State.finish (s : State) (e : RunEnd) : State := { s with ended := some e }

/-- Append a byte to the output stream. -/
def State.putOutput (s : State) (b : Byte) : State := { s with output := s.output ++ [b] }

/-- Count `n` free values as drawn. -/
def State.drawFree (s : State) (n : Nat) : State := { s with freeIdx := s.freeIdx + n }

/-! Reading registers. -/

/-- `x[i]` for a 3-bit field (R88). -/
def State.lo (s : State) (n : LoReg) : Word := s.regs.get (.lo n)

/-- SP, `x[13]` of the current mode (R21, R24). -/
def State.sp (s : State) : Word := s.regs.get (.sp (bankOf s.cpsr.m))

/-- LR, `x[14]` of the current mode (R21, R24). -/
def State.lr (s : State) : Word := s.regs.get (.lr (bankOf s.cpsr.m))

/-- What an instruction reads from r15 (R26): its own address plus 4. -/
def State.pcValue (s : State) : Word := s.pc + 4#32

/-- `x[i]` for a 4-bit register number, r15 included (R10, R26). -/
def State.reg (s : State) (i : Reg) : Word :=
  match physOf s.cpsr.m i with
  | some p => s.regs.get p
  | none => s.pcValue

/-! Writing registers and moving on. -/

/-- `x[d] <- v` for a 3-bit field. -/
def State.setLo (s : State) (d : LoReg) (v : Word) : State := s.setPhys (.lo d) v

/-- `x[13] <- v`. -/
def State.setSp (s : State) (v : Word) : State := s.setPhys (.sp (bankOf s.cpsr.m)) v

/-- `x[14] <- v`. -/
def State.setLr (s : State) (v : Word) : State := s.setPhys (.lr (bankOf s.cpsr.m)) v

/-- The implicit `pc <- pc + 2` (R25); from 0xFFFFFFFE it is `REFUSE(U19)` (R28), after the
instruction's own refusals and aborts (DEDUCED; log entry 13). -/
def advance (s : State) : Result :=
  if s.pc = 0xFFFFFFFE#32 then .refused .sequentialWrap else .next (s.setPc (s.pc + 2#32))

/-- A value with bit 0 cleared: `v AND 0xFFFFFFFE` (R27). -/
def clearBit0 (v : Word) : Word := v &&& 0xFFFFFFFE#32

/-- A value with bits 1 and 0 cleared: `v AND 0xFFFFFFFC` (R26, R124). -/
def clearBits10 (v : Word) : Word := v &&& 0xFFFFFFFC#32

/-- The link value of a call: the address of the next instruction with bit 0 set (R123, R124, R126). -/
def linkValue (s : State) : Word := (s.pc + 2#32) ||| 1#32

/-- Write a 4-bit register and move on; a write to r15 is a branch that ignores bit 0 (R27, R178, R180). -/
def writeReg (d : Reg) (v : Word) (s : State) : Result :=
  match physOf s.cpsr.m d with
  | some p => advance (s.setPhys p v)
  | none => .next (s.setPc (clearBit0 v))

/-- A branch whose target's bit 0 selects the state (R125, R126, R254 v5T): Thumb when 1; ARM when 0, which needs a
word-aligned target, else the given refusal. -/
def interwork (c : Cause) (bad : Refusal) (t : Word) (s : State) : Result :=
  if t.getLsbD 0 then .next ((s.setCpsr { s.cpsr with t := true }).setPc (clearBit0 t))
  else if t.getLsbD 1 then .refused bad
  else .next (((s.setCpsr { s.cpsr with t := false }).setPc t).finish (.leftThumb c))

/-! Results with their flags. -/

/-- Write an arithmetic result and N, Z, C, V (R150). -/
def writeSum (d : LoReg) (r : SumResult) (s : State) : Result :=
  advance ((s.setLo d r.result).setCpsr (s.cpsr.withSum r))

/-- Write N, Z, C, V of an arithmetic result and no register (R150). -/
def compareSum (r : SumResult) (s : State) : Result := advance (s.setCpsr (s.cpsr.withSum r))

/-- Write a result and N, Z; C and V unchanged (R150). -/
def writeLogic (d : LoReg) (r : Word) (s : State) : Result :=
  advance ((s.setLo d r).setCpsr (s.cpsr.withNZ r))

/-- Write N, Z of a result and no register (R150). -/
def compareLogic (r : Word) (s : State) : Result := advance (s.setCpsr (s.cpsr.withNZ r))

/-- Write a shifted value, N, Z, and C where the shift has a carry-out (R150). -/
def writeShift (d : LoReg) (r : ShiftResult) (s : State) : Result :=
  advance ((s.setLo d r.result).setCpsr (s.cpsr.withShift r))

/-! Exceptions. -/

/-- The mode an exception enters (R271). -/
def Exc.mode (e : Exc) : Mode :=
  match e with
  | .reset => .supervisor
  | .undefinedInstruction => .undefined
  | .softwareInterrupt _ => .supervisor
  | .prefetchAbort _ => .abort
  | .dataAbort _ => .abort
  | .irq => .irq
  | .fiq => .fiq

/-- The vector of an exception (R61, R271), from `VECTOR_BASE`. -/
def Exc.vector (e : Exc) : Word :=
  Config.vectorBase + match e with
  | .reset => 0x00#32
  | .undefinedInstruction => 0x04#32
  | .softwareInterrupt _ => 0x08#32
  | .prefetchAbort _ => 0x0C#32
  | .dataAbort _ => 0x10#32
  | .irq => 0x18#32
  | .fiq => 0x1C#32

/-- Does the entry set F (R271, R275)? -/
def Exc.masksFiq (e : Exc) : Bool :=
  match e with
  | .reset => true
  | .fiq => true
  | _ => false

/-- The return link of an exception taken at the instruction whose address is `pc` (R271): for IRQ and FIQ that is the
next instruction to execute; for Reset it is unspecified, a free value. -/
def returnLink (e : Exc) (s : State) : Word :=
  match e with
  | .reset => Config.freeWord s.freeIdx
  | .undefinedInstruction => s.pc + 2#32
  | .softwareInterrupt _ => s.pc + 2#32
  | .prefetchAbort _ => s.pc + 4#32
  | .dataAbort _ => s.pc + 8#32
  | .irq => s.pc + 4#32
  | .fiq => s.pc + 4#32

/-- Exception entry in Thumb state, for every exception (R275). -/
def enterException (e : Exc) (s : State) : State :=
  let b := bankOf e.mode
  ((((s.setPhys (.lr b) (returnLink e s)).setSpsr b s.cpsr).setCpsr
    { s.cpsr with m := e.mode, t := false, i := true, f := s.cpsr.f || e.masksFiq }).setPc e.vector).finish
    (.leftThumb (.exception e))

/-- Six free words, from the `k`-th draw on. -/
def freeBanked (k : Nat) : BankedWord :=
  ⟨Config.freeWord k, Config.freeWord (k + 1), Config.freeWord (k + 2), Config.freeWord (k + 3),
    Config.freeWord (k + 4), Config.freeWord (k + 5)⟩

/-- Five free words, from the `k`-th draw on. -/
def freeFive (k : Nat) : Vector Word 5 :=
  #v[Config.freeWord k, Config.freeWord (k + 1), Config.freeWord (k + 2), Config.freeWord (k + 3),
    Config.freeWord (k + 4)]

/-- General registers of which nothing is known, from the `k`-th draw on: 30 draws (R37). -/
def freeRegs (k : Nat) : RegFile :=
  ⟨#v[Config.freeWord k, Config.freeWord (k + 1), Config.freeWord (k + 2), Config.freeWord (k + 3),
      Config.freeWord (k + 4), Config.freeWord (k + 5), Config.freeWord (k + 6), Config.freeWord (k + 7)],
    freeFive (k + 8), freeFive (k + 13), freeBanked (k + 18), freeBanked (k + 24)⟩

/-- A status register of which nothing is known, from the `k`-th draw on: 8 draws. -/
def freePsr (k : Nat) : PSR :=
  ⟨Config.freeBit k, Config.freeBit (k + 1), Config.freeBit (k + 2), Config.freeBit (k + 3),
    (Config.freeWord (k + 4)).extractLsb' 8 20, Config.freeBit (k + 5), Config.freeBit (k + 6),
    Config.freeBit (k + 7), Config.freeMode k⟩

/-- What Reset leaves unspecified (R37, R282, R310), made free: every general register, every SPSR, the flags and the
reserved bits of the CPSR. Memory is not changed by reset. DESIGN CHOICE: the form of the free values (log entry 10). -/
def unspecifyAfterReset (s : State) : State :=
  let k := s.freeIdx
  { s.drawFree 80 with
    regs := freeRegs k
    spsr := ⟨freePsr (k + 30), freePsr (k + 38), freePsr (k + 46), freePsr (k + 54), freePsr (k + 62)⟩
    cpsr := { freePsr (k + 70) with i := s.cpsr.i, f := s.cpsr.f, t := s.cpsr.t, m := s.cpsr.m } }

/-- TAKING AN EXCEPTION: the entry of R275; after Reset, the state of R37 (R282). -/
def takeException (e : Exc) (s : State) : State :=
  match e with
  | .reset => unspecifyAfterReset (enterException .reset s)
  | _ => enterException e s

/-- What the handler's return must do (R283, R284): load the pc from the current mode's r14 less the exception's
adjustment, and the CPSR from the current mode's SPSR; if that restores T = 1, execution resumes in Thumb state. The
return is an ARM instruction, so no Thumb instruction calls this (log entry 14). `none`: User and System modes have no
SPSR. -/
def returnFromException (adjust : Word) (s : State) : Option State :=
  match s.spsr.get (bankOf s.cpsr.m) with
  | none => none
  | some p => some { s with pc := s.lr - adjust, cpsr := p, ended := if p.t then none else s.ended }

/-- The adjustment the handler's return instruction makes (R283). For Reset R283 gives none, since Reset discards the
interrupted program (R282): 0 there is a DESIGN CHOICE, unsafe, that no step and no statement uses (log entry 14). -/
def returnAdjust (e : Exc) : Word :=
  match e with
  | .reset => 0#32
  | .undefinedInstruction => 0#32
  | .softwareInterrupt _ => 0#32
  | .prefetchAbort _ => 4#32
  | .dataAbort _ => 8#32
  | .irq => 4#32
  | .fiq => 4#32

/-- The ARM `BX` of a start-up header (70_reset_and_hazards.md R312): T from bit 0, the pc from the value with bit 0
cleared. The way from ARM state into Thumb state (R31); no Thumb instruction calls this. -/
def armBx (v : Word) (s : State) : State :=
  { s with pc := clearBit0 v, cpsr := { s.cpsr with t := v.getLsbD 0 }
           ended := if v.getLsbD 0 then none else s.ended }

/-- After the checks of a data access: do it, take the Data abort (R279), or refuse (U14). -/
def guarded (c : Access) (s : State) (done : Result) : Result :=
  match c with
  | .granted => done
  | .aborts a => .next (takeException (.dataAbort a) s)
  | .refuses a => .refused (.misaligned a)

/-! What a step does before it executes (00_scope.md R14, R285). -/

/-- Why a state has no successor (R7, U20, D16); `none` while the machine runs Thumb code. -/
def stopped (s : State) : Option Fault :=
  match s.ended with
  | some (.leftThumb c) => some (.leftThumb c)
  | some .exited => some .exited
  | none => if s.cpsr.t then none else some .armState

/-- The exception taken before the fetch, by priority (R285): Reset, FIQ when F = 0, IRQ when I = 0 (R289). -/
def pendingException (s : State) : Option Exc :=
  if s.events.resetAt.contains s.stepNo then some .reset
  else if s.events.fiqAt.contains s.stepNo && !s.cpsr.f then some .fiq
  else if s.events.irqAt.contains s.stepNo && !s.cpsr.i then some .irq
  else none

/-- Count the step in the state it gives. -/
def countStep (r : Result) : Result :=
  match r with
  | .next s => .next { s with stepNo := s.stepNo + 1 }
  | .fault f => .fault f
  | .refused f => .refused f

end Sys2Proof.Machine
end

