-- ==== Sys2Proof/Machine/Operands.lean ====
section
/-! DEFINITION. Operands: how each immediate becomes a value (30_encoding.md R87), the effective addresses of the four
addressing modes (43_load_store_single.md R220), the values loads and stores move (R58), register lists (R250). -/

namespace Sys2Proof.Machine

/-- `zext_32` of an immediate field (R87: imm3, imm8, byte off5). -/
def zext {w : Nat} (x : BitVec w) : Word := x.setWidth 32

/-- A field that counts halfwords, zero-extended and doubled (R87: halfword off5, the low half of BL). -/
def zext2 {w : Nat} (x : BitVec w) : Word := x.setWidth 32 <<< 1

/-- A field that counts words, zero-extended and times 4 (R87: imm8 of DP7, imm7, word off5, off8). -/
def zext4 {w : Nat} (x : BitVec w) : Word := x.setWidth 32 <<< 2

/-- `sext_32(offset :: 0)`: a branch offset in halfwords (R87: B1, B2). -/
def branchOffset {w : Nat} (x : BitVec w) : Word := (x ++ 0#1).signExtend 32

/-- `sext_32(offset11) << 12`: the upper part of a BL offset (R87: B3 with H = 0). -/
def blUpperOffset (x : BitVec 11) : Word := x.signExtend 32 <<< 12

/-- The PC as a base, bit 1 cleared: `(pc + 4) AND 0xFFFFFFFC` (R26). -/
def pcBase (s : State) : Word := clearBits10 s.pcValue

/-- Base plus register (R220, LS3). -/
def eaReg (s : State) (n m : LoReg) : Word := s.lo n + s.lo m

/-- Base plus 5-bit offset in words (R220, LS1 word). -/
def eaWord5 (s : State) (n : LoReg) (off : BitVec 5) : Word := s.lo n + zext4 off

/-- Base plus 5-bit offset in halfwords (R220, LS2). -/
def eaHalf5 (s : State) (n : LoReg) (off : BitVec 5) : Word := s.lo n + zext2 off

/-- Base plus 5-bit offset in bytes (R220, LS1 byte). -/
def eaByte5 (s : State) (n : LoReg) (off : BitVec 5) : Word := s.lo n + zext off

/-- PC-relative (R220, LS4). -/
def eaPc (s : State) (off : BitVec 8) : Word := pcBase s + zext4 off

/-- SP-relative (R220, LS5). -/
def eaSp (s : State) (off : BitVec 8) : Word := s.sp + zext4 off

/-- What a load moves (R58) and how it becomes 32 bits. -/
inductive LoadKind where
  | word
  | half
  | byte
  | signedHalf
  | signedByte
deriving DecidableEq, Repr

/-- What a store moves (R58). -/
inductive StoreKind where
  | word
  | half
  | byte
deriving DecidableEq, Repr

/-- The size of a load in bytes (R58). -/
def LoadKind.size (k : LoadKind) : Nat :=
  match k with
  | .word => 4
  | .half => 2
  | .byte => 1
  | .signedHalf => 2
  | .signedByte => 1

/-- The size of a store in bytes (R58). -/
def StoreKind.size (k : StoreKind) : Nat :=
  match k with
  | .word => 4
  | .half => 2
  | .byte => 1

/-- The 32-bit value a load gives (R222, R224, R226, R230, R234): narrow loads extend with zeros or the sign. -/
def loadValue (s : State) (k : LoadKind) (a : Word) : Word :=
  match k with
  | .word => readWord s.params.endian s.mem a
  | .half => (readHalf s.params.endian s.mem a).setWidth 32
  | .byte => (readByte s.mem a.toNat).setWidth 32
  | .signedHalf => (readHalf s.params.endian s.mem a).signExtend 32
  | .signedByte => (readByte s.mem a.toNat).signExtend 32

/-- Memory after a store (R56): narrow stores write the low bits of the value. -/
def storeValue (s : State) (k : StoreKind) (a v : Word) : Memory :=
  match k with
  | .word => writeWord s.params.endian s.mem a v
  | .half => writeHalf s.params.endian s.mem a v
  | .byte => writeOne s.mem a v

/-- A single load: `x[d] <- MemRead(a, size)` after its checks (R55). -/
def loadLo (k : LoadKind) (d : LoReg) (a : Word) (s : State) : Result :=
  guarded (checkAccess s .read a k.size) s (advance (s.setLo d (loadValue s k a)))

/-- A single store: `MemWrite(a, size, x[d])` after its checks (R56). -/
def storeLo (k : StoreKind) (d : LoReg) (a : Word) (s : State) : Result :=
  guarded (checkAccess s .write a k.size) s (advance (s.setMem (storeValue s k a (s.lo d))))

/-- The registers of an 8-bit list in ascending order (R250(a), (b)). -/
def listRegs (list : BitVec 8) : List LoReg :=
  [0#3, 1#3, 2#3, 3#3, 4#3, 5#3, 6#3, 7#3].filter fun i => list.getLsbD i.toNat

/-- The number of registers in a list with its R bit (R250(a)): `k`. -/
def listCount (r : Bool) (list : BitVec 8) : Nat := (listRegs list).length + r.toNat

/-- The size of a transfer of `k` words: `4 * k` bytes. -/
def bytesOfWords (k : Nat) : Word := BitVec.ofNat 32 (4 * k)

/-- Load registers from the addresses paired with them, one by one (R250(c)). -/
def loadRegs (e : Endian) (m : Memory) : State → List (LoReg × Word) → State
  | s, [] => s
  | s, (r, a) :: rest => loadRegs e m (s.setLo r (readWord e m a)) rest

end Sys2Proof.Machine
end

