-- ==== Sys2Proof/Machine/Branch.lean ====
section
/-! DEFINITION. The branch instructions (40_branch.md). No branch writes a condition flag; there are no delay slots. -/

namespace Sys2Proof.Machine

/-- R120: take a branch of format B1 when its condition passes. -/
def branchIf (c : Cond) (off : BitVec 8) (s : State) : Result :=
  if conditionPassed c s.cpsr then .next (s.setPc (s.pcValue + branchOffset off)) else advance s

/-- R120 with cond = 0000. -/
def execBeq (off : BitVec 8) (s : State) : Result :=
  branchIf .eq off s

/-- R120 with cond = 0001. -/
def execBne (off : BitVec 8) (s : State) : Result :=
  branchIf .ne off s

/-- R120 with cond = 0010. -/
def execBcs (off : BitVec 8) (s : State) : Result :=
  branchIf .cs off s

/-- R120 with cond = 0011. -/
def execBcc (off : BitVec 8) (s : State) : Result :=
  branchIf .cc off s

/-- R120 with cond = 0100. -/
def execBmi (off : BitVec 8) (s : State) : Result :=
  branchIf .mi off s

/-- R120 with cond = 0101. -/
def execBpl (off : BitVec 8) (s : State) : Result :=
  branchIf .pl off s

/-- R120 with cond = 0110. -/
def execBvs (off : BitVec 8) (s : State) : Result :=
  branchIf .vs off s

/-- R120 with cond = 0111. -/
def execBvc (off : BitVec 8) (s : State) : Result :=
  branchIf .vc off s

/-- R120 with cond = 1000. -/
def execBhi (off : BitVec 8) (s : State) : Result :=
  branchIf .hi off s

/-- R120 with cond = 1001. -/
def execBls (off : BitVec 8) (s : State) : Result :=
  branchIf .ls off s

/-- R120 with cond = 1010. -/
def execBge (off : BitVec 8) (s : State) : Result :=
  branchIf .ge off s

/-- R120 with cond = 1011. -/
def execBlt (off : BitVec 8) (s : State) : Result :=
  branchIf .lt off s

/-- R120 with cond = 1100. -/
def execBgt (off : BitVec 8) (s : State) : Result :=
  branchIf .gt off s

/-- R120 with cond = 1101. -/
def execBle (off : BitVec 8) (s : State) : Result :=
  branchIf .le off s

/-- R121: `B label`. -/
def execB (off : BitVec 11) (s : State) : Result :=
  .next (s.setPc (s.pcValue + branchOffset off))

/-- R122: the first half of BL or BLX: LR takes the upper part of the target. -/
def execBlFirst (off : BitVec 11) (s : State) : Result :=
  advance (s.setLr (s.pcValue + blUpperOffset off))

/-- R123: the second half of BL: branch relative to LR, leaving the return address with bit 0 set. -/
def execBlSecond (off : BitVec 11) (s : State) : Result :=
  .next ((s.setLr (linkValue s)).setPc (clearBit0 (s.lr + zext2 off)))

/-- R124: the second half of `BLX label`, v5T; under v4T the encoding is UNDEFINED (R91). -/
def execBlxLabel (offHigh : BitVec 10) (s : State) : Result :=
  match s.params.arch with
  | .v4T => .next (takeException .undefinedInstruction s)
  | .v5T =>
    .next ((((s.setLr (linkValue s)).setCpsr { s.cpsr with t := false }).setPc
      (clearBits10 (s.lr + zext2 (offHigh ++ 0#1)))).finish (.leftThumb .blx))

/-- R125: `BX Rm`. -/
def execBx (rm : Reg) (sbz : BitVec 3) (s : State) : Result :=
  if sbz = 0#3 then interwork .bx (.armTargetUnaligned (s.reg rm)) (s.reg rm) s
  else .refused .sbzNonzero

/-- R126: `BLX Rm`, v5T; the target is read before LR is written. Under v4T the refusal is U8 whatever the
other fields (DEDUCED; log entry 13). -/
def execBlxReg (rm : Reg) (sbz : BitVec 3) (s : State) : Result :=
  match s.params.arch with
  | .v4T => .refused .blxRegV4T
  | .v5T =>
    if sbz = 0#3 then
      if rm = 15#4 then .refused .blxPc
      else interwork .blx (.armTargetUnaligned (s.reg rm)) (s.reg rm) (s.setLr (linkValue s))
    else .refused .sbzNonzero

end Sys2Proof.Machine
end

