-- ==== Sys2Proof/Machine/DataProcessing.lean ====
section
/-! DEFINITION. The data processing instructions (42_data_processing.md), formats DP1 to DP8 in the source's order. -/

namespace Sys2Proof.Machine

/-! DP4: shifts by an immediate. -/

/-- R159: `LSL Rd, Rm, #sh`; sh = 0 is a copy that keeps C. -/
def execLslImm (rd rm : LoReg) (sh : BitVec 5) (s : State) : Result :=
  writeShift rd (shiftBy lslC (s.lo rm) sh.toNat) s

/-- R160: `LSR Rd, Rm, #sh`; the field 0 means 32. -/
def execLsrImm (rd rm : LoReg) (sh : BitVec 5) (s : State) : Result :=
  writeShift rd (shiftBy lsrC (s.lo rm) (immShiftAmount sh)) s

/-- R161: `ASR Rd, Rm, #sh`; the field 0 means 32. -/
def execAsrImm (rd rm : LoReg) (sh : BitVec 5) (s : State) : Result :=
  writeShift rd (shiftBy asrC (s.lo rm) (immShiftAmount sh)) s

/-! DP1, DP2: three-operand ADD and SUB. -/

/-- R151: `ADD Rd, Rn, Rm`. -/
def execAddReg (rd rn rm : LoReg) (s : State) : Result :=
  writeSum rd (sumOf (s.lo rn) (s.lo rm)) s

/-- R152: `SUB Rd, Rn, Rm`. -/
def execSubReg (rd rn rm : LoReg) (s : State) : Result :=
  writeSum rd (differenceOf (s.lo rn) (s.lo rm)) s

/-- R153: `ADD Rd, Rn, #imm3`. -/
def execAddImm3 (rd rn : LoReg) (imm : BitVec 3) (s : State) : Result :=
  writeSum rd (sumOf (s.lo rn) (zext imm)) s

/-- R154: `SUB Rd, Rn, #imm3`. -/
def execSubImm3 (rd rn : LoReg) (imm : BitVec 3) (s : State) : Result :=
  writeSum rd (differenceOf (s.lo rn) (zext imm)) s

/-! DP3: an 8-bit immediate. -/

/-- R155: `MOV Rd, #imm8`; C and V unchanged. -/
def execMovImm8 (rd : LoReg) (imm : BitVec 8) (s : State) : Result :=
  writeLogic rd (zext imm) s

/-- R156: `CMP Rn, #imm8`. -/
def execCmpImm8 (rn : LoReg) (imm : BitVec 8) (s : State) : Result :=
  compareSum (differenceOf (s.lo rn) (zext imm)) s

/-- R157: `ADD Rd, #imm8`. -/
def execAddImm8 (rd : LoReg) (imm : BitVec 8) (s : State) : Result :=
  writeSum rd (sumOf (s.lo rd) (zext imm)) s

/-- R158: `SUB Rd, #imm8`. -/
def execSubImm8 (rd : LoReg) (imm : BitVec 8) (s : State) : Result :=
  writeSum rd (differenceOf (s.lo rd) (zext imm)) s

/-! DP5: register-to-register operations. Register shifts use bits [7:0] of Rs. -/

/-- The amount of a register shift: `x[s][7:0]` (R164). -/
def regShiftAmount (s : State) (rs : LoReg) : Nat := ((s.lo rs).extractLsb' 0 8).toNat

/-- R162: `AND Rd, Rm`. -/
def execAndReg (rd rm : LoReg) (s : State) : Result :=
  writeLogic rd (s.lo rd &&& s.lo rm) s

/-- R163: `EOR Rd, Rm`. -/
def execEorReg (rd rm : LoReg) (s : State) : Result :=
  writeLogic rd (s.lo rd ^^^ s.lo rm) s

/-- R164: `LSL Rd, Rs`. -/
def execLslReg (rd rs : LoReg) (s : State) : Result :=
  writeShift rd (shiftBy lslC (s.lo rd) (regShiftAmount s rs)) s

/-- R165: `LSR Rd, Rs`. -/
def execLsrReg (rd rs : LoReg) (s : State) : Result :=
  writeShift rd (shiftBy lsrC (s.lo rd) (regShiftAmount s rs)) s

/-- R166: `ASR Rd, Rs`. -/
def execAsrReg (rd rs : LoReg) (s : State) : Result :=
  writeShift rd (shiftBy asrC (s.lo rd) (regShiftAmount s rs)) s

/-- R167: `ADC Rd, Rm`. -/
def execAdc (rd rm : LoReg) (s : State) : Result :=
  writeSum rd (addWithCarry (s.lo rd) (s.lo rm) s.cpsr.c) s

/-- R168: `SBC Rd, Rm`. -/
def execSbc (rd rm : LoReg) (s : State) : Result :=
  writeSum rd (addWithCarry (s.lo rd) (~~~(s.lo rm)) s.cpsr.c) s

/-- R169: `ROR Rd, Rs`. -/
def execRorReg (rd rs : LoReg) (s : State) : Result :=
  writeShift rd (shiftBy rorC (s.lo rd) (regShiftAmount s rs)) s

/-- R170: `TST Rn, Rm`. -/
def execTst (rn rm : LoReg) (s : State) : Result :=
  compareLogic (s.lo rn &&& s.lo rm) s

/-- R171: `NEG Rd, Rn`. -/
def execNeg (rd rn : LoReg) (s : State) : Result :=
  writeSum rd (differenceOf 0#32 (s.lo rn)) s

/-- R172: `CMP Rn, Rm`, both Lo. -/
def execCmpReg (rn rm : LoReg) (s : State) : Result :=
  compareSum (differenceOf (s.lo rn) (s.lo rm)) s

/-- R173: `CMN Rn, Rm`. -/
def execCmn (rn rm : LoReg) (s : State) : Result :=
  compareSum (sumOf (s.lo rn) (s.lo rm)) s

/-- R174: `ORR Rd, Rm`. -/
def execOrr (rd rm : LoReg) (s : State) : Result :=
  writeLogic rd (s.lo rd ||| s.lo rm) s

/-- The C flag after MUL (R150, R175): unchanged under v5T; any value under v4T (U11), so one free bit is drawn
(log entry 9). -/
def mulCarry (s : State) : State :=
  match s.params.arch with
  | .v5T => s
  | .v4T => (s.setCpsr (s.cpsr.withC (Config.freeBit s.freeIdx))).drawFree 1

/-- R175: `MUL Rd, Rm`; Rd = Rm is `REFUSE(U10)` unless `MUL_SAME_REG = compute`. -/
def execMul (rd rm : LoReg) (s : State) : Result :=
  if rd = rm ∧ s.params.mulSameReg = .refuse then .refused .mulSameReg
  else
    let r := s.lo rm * s.lo rd
    advance (mulCarry ((s.setLo rd r).setCpsr (s.cpsr.withNZ r)))

/-- R176: `BIC Rd, Rm`. -/
def execBic (rd rm : LoReg) (s : State) : Result :=
  writeLogic rd (s.lo rd &&& ~~~(s.lo rm)) s

/-- R177: `MVN Rd, Rm`. -/
def execMvn (rd rm : LoReg) (s : State) : Result :=
  writeLogic rd (~~~(s.lo rm)) s

/-! DP6: one or two Hi registers (R88); both Lo is `REFUSE(U1)`. -/

/-- R178: `ADD Rd, Rm`; no flags; Rd = PC is a branch that ignores bit 0 (R27). -/
def execAddHi (rd rm : Reg) (s : State) : Result :=
  if isLo rd && isLo rm then .refused .bothLo
  else writeReg rd (s.reg rd + s.reg rm) s

/-- R179: `CMP Rn, Rm`; r15 as an operand is `REFUSE(U17)`. -/
def execCmpHi (rn rm : Reg) (s : State) : Result :=
  if isLo rn && isLo rm then .refused .bothLo
  else if rn = 15#4 ∨ rm = 15#4 then .refused .cmpHiPc
  else compareSum (differenceOf (s.reg rn) (s.reg rm)) s

/-- R180: `MOV Rd, Rm`; no flags; Rd = PC is a branch that ignores bit 0 (R27) and keeps T. -/
def execMovHi (rd rm : Reg) (s : State) : Result :=
  if isLo rd && isLo rm then .refused .bothLo
  else writeReg rd (s.reg rm) s

/-! DP7, DP8: address generation and the stack pointer. No flags. -/

/-- R181: `ADD Rd, PC, #imm8*4`; the PC value with bit 1 cleared. -/
def execAddPc (rd : LoReg) (imm : BitVec 8) (s : State) : Result :=
  advance (s.setLo rd (pcBase s + zext4 imm))

/-- R182: `ADD Rd, SP, #imm8*4`. -/
def execAddRdSp (rd : LoReg) (imm : BitVec 8) (s : State) : Result :=
  advance (s.setLo rd (s.sp + zext4 imm))

/-- R183: `ADD SP, SP, #imm7*4`. -/
def execAddSp (imm : BitVec 7) (s : State) : Result :=
  advance (s.setSp (s.sp + zext4 imm))

/-- R184: `SUB SP, SP, #imm7*4`. -/
def execSubSp (imm : BitVec 7) (s : State) : Result :=
  advance (s.setSp (s.sp - zext4 imm))

end Sys2Proof.Machine
end

