-- ==== Sys2Proof/Machine/MultipleTransfer.lean ====
section
/-! DEFINITION. The multiple register transfers (44_load_store_multiple.md). All addresses are checked before any access (R250(e)),
so an abort changes nothing but what its entry changes. -/

namespace Sys2Proof.Machine

/-- PUSH's lowest address (R253): `x[13] - 4 * k`. -/
def pushStart (s : State) (lr : Bool) (list : BitVec 8) : Word := s.sp - bytesOfWords (listCount lr list)

/-- The values PUSH stores, lowest address first (R250(b), R253): the list's registers, then LR. -/
def pushValues (s : State) (lr : Bool) (list : BitVec 8) : List Word :=
  (listRegs list).map s.lo ++ (if lr then [s.lr] else [])

/-- R253: `PUSH {list{, lr}}`, full descending. -/
def execPush (lr : Bool) (list : BitVec 8) (s : State) : Result :=
  let k := listCount lr list
  if k = 0 then .refused .emptyList
  else
    let start := pushStart s lr list
    let as := wordAddrs start k
    guarded (checkWords s .write as) s
      (advance ((s.setMem (writeWords s.params.endian s.mem (as.zip (pushValues s lr list)))).setSp start))

/-- The address of the word POP loads into the pc (R254): the highest, `x[13] + 4 * (k - 1)`. -/
def popPcAddr (s : State) (list : BitVec 8) : Word := s.sp + bytesOfWords (listRegs list).length

/-- R254: `POP {list{, pc}}`; under v5T bit 0 of the loaded pc selects the state. -/
def execPop (pc : Bool) (list : BitVec 8) (s : State) : Result :=
  let k := listCount pc list
  if k = 0 then .refused .emptyList
  else
    let as := wordAddrs s.sp k
    guarded (checkWords s .read as) s
      (let s' := (loadRegs s.params.endian s.mem s ((listRegs list).zip as)).setSp (s.sp + bytesOfWords k)
       if pc then
         let v := readWord s.params.endian s.mem (popPcAddr s list)
         match s.params.arch with
         | .v4T => .next (s'.setPc (clearBit0 v))
         | .v5T => interwork .pop (.popTargetUnaligned v) v s'
       else advance s')

/-- R251: `STMIA Rn!, {list}`. -/
def execStmia (rn : LoReg) (list : BitVec 8) (s : State) : Result :=
  if list = 0#8 then .refused .emptyList
  else if list.getLsbD rn.toNat then .refused .baseInList
  else
    let rs := listRegs list
    let as := wordAddrs (s.lo rn) rs.length
    guarded (checkWords s .write as) s
      (advance ((s.setMem (writeWords s.params.endian s.mem (as.zip (rs.map s.lo)))).setLo rn
        (s.lo rn + bytesOfWords rs.length)))

/-- R252: `LDMIA Rn!, {list}`. -/
def execLdmia (rn : LoReg) (list : BitVec 8) (s : State) : Result :=
  if list = 0#8 then .refused .emptyList
  else if list.getLsbD rn.toNat then .refused .baseInList
  else
    let rs := listRegs list
    let as := wordAddrs (s.lo rn) rs.length
    guarded (checkWords s .read as) s
      (advance ((loadRegs s.params.endian s.mem s (rs.zip as)).setLo rn (s.lo rn + bytesOfWords rs.length)))

end Sys2Proof.Machine
end

