-- ==== Sys2Proof/Machine/SingleTransfer.lean ====
section
/-! DEFINITION. The single register transfers (43_load_store_single.md). No flag is read or written and no base
is modified. -/

namespace Sys2Proof.Machine

/-! LS4, LS3: PC-relative load; base plus register. -/

/-- R235: `LDR Rd, [PC, #off8*4]`. -/
def execLdrPc (rd : LoReg) (off : BitVec 8) (s : State) : Result :=
  loadLo .word rd (eaPc s off) s

/-- R227: `STR Rd, [Rn, Rm]`. -/
def execStrReg (rd rn rm : LoReg) (s : State) : Result :=
  storeLo .word rd (eaReg s rn rm) s

/-- R228: `STRH Rd, [Rn, Rm]`. -/
def execStrhReg (rd rn rm : LoReg) (s : State) : Result :=
  storeLo .half rd (eaReg s rn rm) s

/-- R229: `STRB Rd, [Rn, Rm]`. -/
def execStrbReg (rd rn rm : LoReg) (s : State) : Result :=
  storeLo .byte rd (eaReg s rn rm) s

/-- R230: `LDRSB Rd, [Rn, Rm]`. -/
def execLdrsbReg (rd rn rm : LoReg) (s : State) : Result :=
  loadLo .signedByte rd (eaReg s rn rm) s

/-- R231: `LDR Rd, [Rn, Rm]`. -/
def execLdrReg (rd rn rm : LoReg) (s : State) : Result :=
  loadLo .word rd (eaReg s rn rm) s

/-- R232: `LDRH Rd, [Rn, Rm]`. -/
def execLdrhReg (rd rn rm : LoReg) (s : State) : Result :=
  loadLo .half rd (eaReg s rn rm) s

/-- R233: `LDRB Rd, [Rn, Rm]`. -/
def execLdrbReg (rd rn rm : LoReg) (s : State) : Result :=
  loadLo .byte rd (eaReg s rn rm) s

/-- R234: `LDRSH Rd, [Rn, Rm]`. -/
def execLdrshReg (rd rn rm : LoReg) (s : State) : Result :=
  loadLo .signedHalf rd (eaReg s rn rm) s

/-! LS1, LS2: base plus 5-bit offset. -/

/-- R221: `STR Rd, [Rn, #off5*4]`. -/
def execStrImm (rd rn : LoReg) (off : BitVec 5) (s : State) : Result :=
  storeLo .word rd (eaWord5 s rn off) s

/-- R222: `LDR Rd, [Rn, #off5*4]`. -/
def execLdrImm (rd rn : LoReg) (off : BitVec 5) (s : State) : Result :=
  loadLo .word rd (eaWord5 s rn off) s

/-- R223: `STRB Rd, [Rn, #off5]`. -/
def execStrbImm (rd rn : LoReg) (off : BitVec 5) (s : State) : Result :=
  storeLo .byte rd (eaByte5 s rn off) s

/-- R224: `LDRB Rd, [Rn, #off5]`. -/
def execLdrbImm (rd rn : LoReg) (off : BitVec 5) (s : State) : Result :=
  loadLo .byte rd (eaByte5 s rn off) s

/-- R225: `STRH Rd, [Rn, #off5*2]`. -/
def execStrhImm (rd rn : LoReg) (off : BitVec 5) (s : State) : Result :=
  storeLo .half rd (eaHalf5 s rn off) s

/-- R226: `LDRH Rd, [Rn, #off5*2]`. -/
def execLdrhImm (rd rn : LoReg) (off : BitVec 5) (s : State) : Result :=
  loadLo .half rd (eaHalf5 s rn off) s

/-! LS5: SP-relative. -/

/-- R236: `STR Rd, [SP, #off8*4]`. -/
def execStrSp (rd : LoReg) (off : BitVec 8) (s : State) : Result :=
  storeLo .word rd (eaSp s off) s

/-- R237: `LDR Rd, [SP, #off8*4]`. -/
def execLdrSp (rd : LoReg) (off : BitVec 8) (s : State) : Result :=
  loadLo .word rd (eaSp s off) s

end Sys2Proof.Machine
end

