-- ==== Sys2Proof/Machine/System.lean ====
section
/-! DEFINITION. The software interrupt (41_swi.md) and the undefined space of the opcode map (30_encoding.md R91). -/

namespace Sys2Proof.Machine

/-- R140: take the software interrupt; under `SWI_ENV = semihost` serve the two calls of R141. That `SWI_Exit`
moves on as `SWI_WriteC` does is DEDUCED (log entry 12). -/
def execSwi (imm : BitVec 8) (s : State) : Result :=
  match s.params.swiEnv with
  | .architectural => .next (takeException (.softwareInterrupt imm) s)
  | .semihost =>
    if imm = 0x00#8 then advance (s.putOutput (byteOf (s.lo 0#3) 0))
    else if imm = 0x11#8 then advance (s.finish .exited)
    else .refused (.semihostCall imm)

/-- R91, R277: `10110001xxxxxxxx` takes the Undefined instruction exception. -/
def execUndB1 (_rest : BitVec 8) (s : State) : Result := .next (takeException .undefinedInstruction s)

/-- R91, R277: `1011001xxxxxxxxx` takes the Undefined instruction exception. -/
def execUndB2 (_rest : BitVec 9) (s : State) : Result := .next (takeException .undefinedInstruction s)

/-- R91, R277: `1011011xxxxxxxxx` takes the Undefined instruction exception. -/
def execUndB6 (_rest : BitVec 9) (s : State) : Result := .next (takeException .undefinedInstruction s)

/-- R91, R277: `101110xxxxxxxxxx` takes the Undefined instruction exception. -/
def execUndB8 (_rest : BitVec 10) (s : State) : Result := .next (takeException .undefinedInstruction s)

/-- R91, R277: `10111111xxxxxxxx` takes the Undefined instruction exception. -/
def execUndBF (_rest : BitVec 8) (s : State) : Result := .next (takeException .undefinedInstruction s)

/-- R91, R277: `11011110xxxxxxxx` takes the Undefined instruction exception. -/
def execUndDE (_rest : BitVec 8) (s : State) : Result := .next (takeException .undefinedInstruction s)

/-- R91, R277: `11101xxxxxxxxxx1` takes the Undefined instruction exception. -/
def execUndE8 (_rest : BitVec 10) (s : State) : Result := .next (takeException .undefinedInstruction s)

/-- R91, U9: 0xBE00 to 0xBEFF, the space of the missing section 7.8: `REFUSE(U9)`, not an exception, not a no-op. -/
def execRefuseU9 (_rest : BitVec 8) (_s : State) : Result := .refused .section78Space

end Sys2Proof.Machine
end

