-- ==== Sys2Proof/Machine/Dispatch.lean ====
section
/-! DEFINITION. What executing an instruction does: one arm per constructor, each a direct call of its meaning. -/

namespace Sys2Proof.Machine

def exec (i : Instr) (s : State) : Host.Outcome State Fault Refusal :=
  match i with
  | .lslImm rd rm sh => Sys2Proof.Machine.execLslImm rd rm sh s
  | .lsrImm rd rm sh => Sys2Proof.Machine.execLsrImm rd rm sh s
  | .asrImm rd rm sh => Sys2Proof.Machine.execAsrImm rd rm sh s
  | .addReg rd rn rm => Sys2Proof.Machine.execAddReg rd rn rm s
  | .subReg rd rn rm => Sys2Proof.Machine.execSubReg rd rn rm s
  | .addImm3 rd rn imm => Sys2Proof.Machine.execAddImm3 rd rn imm s
  | .subImm3 rd rn imm => Sys2Proof.Machine.execSubImm3 rd rn imm s
  | .movImm8 rd imm => Sys2Proof.Machine.execMovImm8 rd imm s
  | .cmpImm8 rn imm => Sys2Proof.Machine.execCmpImm8 rn imm s
  | .addImm8 rd imm => Sys2Proof.Machine.execAddImm8 rd imm s
  | .subImm8 rd imm => Sys2Proof.Machine.execSubImm8 rd imm s
  | .andReg rd rm => Sys2Proof.Machine.execAndReg rd rm s
  | .eorReg rd rm => Sys2Proof.Machine.execEorReg rd rm s
  | .lslReg rd rs => Sys2Proof.Machine.execLslReg rd rs s
  | .lsrReg rd rs => Sys2Proof.Machine.execLsrReg rd rs s
  | .asrReg rd rs => Sys2Proof.Machine.execAsrReg rd rs s
  | .adc rd rm => Sys2Proof.Machine.execAdc rd rm s
  | .sbc rd rm => Sys2Proof.Machine.execSbc rd rm s
  | .rorReg rd rs => Sys2Proof.Machine.execRorReg rd rs s
  | .tst rn rm => Sys2Proof.Machine.execTst rn rm s
  | .neg rd rn => Sys2Proof.Machine.execNeg rd rn s
  | .cmpReg rn rm => Sys2Proof.Machine.execCmpReg rn rm s
  | .cmn rn rm => Sys2Proof.Machine.execCmn rn rm s
  | .orr rd rm => Sys2Proof.Machine.execOrr rd rm s
  | .mul rd rm => Sys2Proof.Machine.execMul rd rm s
  | .bic rd rm => Sys2Proof.Machine.execBic rd rm s
  | .mvn rd rm => Sys2Proof.Machine.execMvn rd rm s
  | .addHi rd rm => Sys2Proof.Machine.execAddHi rd rm s
  | .cmpHi rn rm => Sys2Proof.Machine.execCmpHi rn rm s
  | .movHi rd rm => Sys2Proof.Machine.execMovHi rd rm s
  | .bx rm sbz => Sys2Proof.Machine.execBx rm sbz s
  | .blxReg rm sbz => Sys2Proof.Machine.execBlxReg rm sbz s
  | .ldrPc rd off => Sys2Proof.Machine.execLdrPc rd off s
  | .strReg rd rn rm => Sys2Proof.Machine.execStrReg rd rn rm s
  | .strhReg rd rn rm => Sys2Proof.Machine.execStrhReg rd rn rm s
  | .strbReg rd rn rm => Sys2Proof.Machine.execStrbReg rd rn rm s
  | .ldrsbReg rd rn rm => Sys2Proof.Machine.execLdrsbReg rd rn rm s
  | .ldrReg rd rn rm => Sys2Proof.Machine.execLdrReg rd rn rm s
  | .ldrhReg rd rn rm => Sys2Proof.Machine.execLdrhReg rd rn rm s
  | .ldrbReg rd rn rm => Sys2Proof.Machine.execLdrbReg rd rn rm s
  | .ldrshReg rd rn rm => Sys2Proof.Machine.execLdrshReg rd rn rm s
  | .strImm rd rn off => Sys2Proof.Machine.execStrImm rd rn off s
  | .ldrImm rd rn off => Sys2Proof.Machine.execLdrImm rd rn off s
  | .strbImm rd rn off => Sys2Proof.Machine.execStrbImm rd rn off s
  | .ldrbImm rd rn off => Sys2Proof.Machine.execLdrbImm rd rn off s
  | .strhImm rd rn off => Sys2Proof.Machine.execStrhImm rd rn off s
  | .ldrhImm rd rn off => Sys2Proof.Machine.execLdrhImm rd rn off s
  | .strSp rd off => Sys2Proof.Machine.execStrSp rd off s
  | .ldrSp rd off => Sys2Proof.Machine.execLdrSp rd off s
  | .addPc rd imm => Sys2Proof.Machine.execAddPc rd imm s
  | .addRdSp rd imm => Sys2Proof.Machine.execAddRdSp rd imm s
  | .addSp imm => Sys2Proof.Machine.execAddSp imm s
  | .subSp imm => Sys2Proof.Machine.execSubSp imm s
  | .push lr list => Sys2Proof.Machine.execPush lr list s
  | .pop pc list => Sys2Proof.Machine.execPop pc list s
  | .stmia rn list => Sys2Proof.Machine.execStmia rn list s
  | .ldmia rn list => Sys2Proof.Machine.execLdmia rn list s
  | .beq off => Sys2Proof.Machine.execBeq off s
  | .bne off => Sys2Proof.Machine.execBne off s
  | .bcs off => Sys2Proof.Machine.execBcs off s
  | .bcc off => Sys2Proof.Machine.execBcc off s
  | .bmi off => Sys2Proof.Machine.execBmi off s
  | .bpl off => Sys2Proof.Machine.execBpl off s
  | .bvs off => Sys2Proof.Machine.execBvs off s
  | .bvc off => Sys2Proof.Machine.execBvc off s
  | .bhi off => Sys2Proof.Machine.execBhi off s
  | .bls off => Sys2Proof.Machine.execBls off s
  | .bge off => Sys2Proof.Machine.execBge off s
  | .blt off => Sys2Proof.Machine.execBlt off s
  | .bgt off => Sys2Proof.Machine.execBgt off s
  | .ble off => Sys2Proof.Machine.execBle off s
  | .swi imm => Sys2Proof.Machine.execSwi imm s
  | .b off => Sys2Proof.Machine.execB off s
  | .blxLabel offHigh => Sys2Proof.Machine.execBlxLabel offHigh s
  | .blFirst off => Sys2Proof.Machine.execBlFirst off s
  | .blSecond off => Sys2Proof.Machine.execBlSecond off s
  | .undB1 rest => Sys2Proof.Machine.execUndB1 rest s
  | .undB2 rest => Sys2Proof.Machine.execUndB2 rest s
  | .undB6 rest => Sys2Proof.Machine.execUndB6 rest s
  | .undB8 rest => Sys2Proof.Machine.execUndB8 rest s
  | .refuseU9 rest => Sys2Proof.Machine.execRefuseU9 rest s
  | .undBF rest => Sys2Proof.Machine.execUndBF rest s
  | .undDE rest => Sys2Proof.Machine.execUndDE rest s
  | .undE8 rest => Sys2Proof.Machine.execUndE8 rest s

end Sys2Proof.Machine
end

