-- ==== Sys2Proof/Machine/Step.lean ====
section
/-! DEFINITION. One step of the machine (00_scope.md R14), and placing the instruction the next step fetches. -/

namespace Sys2Proof.Machine

/-- One step (R14, R285): a state that has no successor stops (R7); else a pending exception is taken before the
fetch; else the halfword at `pc` is fetched (R57), a fetch that is not admitted is a Prefetch abort (R278); else it is
decoded and executed. Each step that gives a next state is counted. -/
def step (s : State) : Host.Outcome State Fault Refusal :=
  match stopped s with
  | some f => .fault f
  | none =>
    countStep
      (match pendingException s with
       | some e => .next (takeException e s)
       | none =>
         match fetchHalf s with
         | none => .next (takeException (.prefetchAbort s.pc) s)
         | some h => exec (decodeHalf h) s)

/-- The state whose next step fetches and runs the instruction whose bits are the low `nbits` of `w`: the halfword is
stored at `pc` in the byte order, its two bytes are admitted for fetch, T is set as the ARM `BX` that enters Thumb
state sets it (R312), the run has not ended, and no input is asserted at this step (log entry 5). -/
def State.withFetchWord (s : State) (nbits w : Nat) : State :=
  let b := splitHalf s.params.endian (BitVec.ofNat 16 (w % 2 ^ nbits))
  let here := s.pc.toNat
  let next := (s.pc + 1#32).toNat
  { s with
    mem := writeByte (writeByte s.mem here b.1) next b.2
    params := { s.params with
      mem := { s.params.mem with fetchable := ⟨here, 1⟩ :: ⟨next, 1⟩ :: s.params.mem.fetchable } }
    cpsr := { s.cpsr with t := true }
    ended := none
    events :=
      ⟨s.events.irqAt.filter (· != s.stepNo), s.events.fiqAt.filter (· != s.stepNo),
        s.events.resetAt.filter (· != s.stepNo)⟩ }

end Sys2Proof.Machine
end

