-- ==== Sys2Proof/Machine/Launch.lean ====
section
/-! DEFINITION. The launch of a run (10_state.md R38, 92_eei_decisions.md D8, 20_memory.md R66): how a Thumb program
comes to run. -/

namespace Sys2Proof.Machine

/-- Why a launch is refused. -/
inductive LaunchRefusal where
  /-- The entry address is not halfword-aligned (D8). -/
  | oddEntry
  /-- `SelfModifyingCode`: the writable and the fetchable set share a byte (R66). -/
  | selfModifyingCode
deriving DecidableEq, Repr

/-- What a launch supplies (R8, R38, D8). Every register and flag has a value (log entry 1); `contents` are bytes of
memory, later entries overwriting earlier ones (log entry 16). -/
structure Launch where
  entry : Word
  mode : Mode := .user
  i : Bool := false
  f : Bool := false
  n : Bool := false
  z : Bool := false
  c : Bool := false
  v : Bool := false
  regs : RegFile := .zero
  contents : List Host.Cell
  params : Params
  events : Events := ⟨[], [], []⟩
deriving DecidableEq, Repr

/-- Memory holding given bytes. -/
def loadBytes : Memory → List Host.Cell → Memory
  | m, [] => m
  | m, (a, b) :: rest => loadBytes (if a < 2 ^ 32 then writeByte m a b else m) rest

/-- The launch state (R38): T = 1, `LAUNCH_MODE`, the entry address, the given masks, flags, registers and memory; or
the launch is refused (D8, R66). -/
def launch (l : Launch) : Except LaunchRefusal State :=
  if l.entry.getLsbD 0 then .error .oddEntry
  else if setsApart l.params.mem.writable l.params.mem.fetchable then
    .ok { State.reset with
      regs := l.regs
      pc := l.entry
      cpsr := { n := l.n, z := l.z, c := l.c, v := l.v, reserved := 0#20, i := l.i, f := l.f, t := true, m := l.mode }
      mem := loadBytes [] l.contents
      params := l.params
      events := l.events }
  else .error .selfModifyingCode

end Sys2Proof.Machine
end

