-- ==== Sys2Proof/Safety.lean ====
section
/-! DEFINITION. The terms statements are made in: when the machine runs, the invariant of its states, what an
instruction leaves unchanged, and the spec's results written in plain arithmetic, apart from the model's operations. -/

namespace Sys2Proof.Machine

/-! Running states and the invariant. -/

/-- The machine is running Thumb code: T = 1 and the run has not ended (00_scope.md R7). -/
abbrev Running (s : State) : Prop := s.ended = none ∧ s.cpsr.t = true

/-- The pc stands at a halfword in Thumb state (10_state.md R25) and at a word in ARM state (R54, 40_branch.md R129). -/
def pcAligned (s : State) : Bool := !s.pc.getLsbD 0 && (s.cpsr.t || !s.pc.getLsbD 1)

/-- A run that has left Thumb state has T = 0 (R7). -/
def endConsistent (s : State) : Bool :=
  match s.ended with
  | some (.leftThumb _) => !s.cpsr.t
  | some .exited => true
  | none => true

/-- The invariant of the machine's states: memory in canonical form, the pc aligned, a left run in ARM state. -/
abbrev Inv (s : State) : Prop := s.mem.wf = true ∧ pcAligned s = true ∧ endConsistent s = true

/-- The instruction does not stand at the last halfword of the address space (R28). -/
abbrev NotTop (s : State) : Prop := s.pc ≠ 0xFFFFFFFE#32

/-! What is left unchanged. -/

/-- Every physical register but those listed is unchanged. -/
def RegsKept (rs : List PhysReg) (s t : State) : Prop := ∀ p, p ∉ rs → t.regs.get p = s.regs.get p

/-- The four condition flags are unchanged. -/
def FlagsKept (s t : State) : Prop :=
  t.cpsr.n = s.cpsr.n ∧ t.cpsr.z = s.cpsr.z ∧ t.cpsr.c = s.cpsr.c ∧ t.cpsr.v = s.cpsr.v

/-- The saved status registers, the masks, the mode, the reserved bits, the parameters, the events, the step number,
the output and the free-value counter are unchanged. -/
def SystemKept (s t : State) : Prop :=
  t.spsr = s.spsr ∧ t.cpsr.reserved = s.cpsr.reserved ∧ t.cpsr.i = s.cpsr.i ∧ t.cpsr.f = s.cpsr.f ∧
  t.cpsr.m = s.cpsr.m ∧ t.params = s.params ∧ t.events = s.events ∧ t.stepNo = s.stepNo ∧ t.output = s.output ∧
  t.freeIdx = s.freeIdx

/-- The T bit and the run's end are unchanged. -/
def StateKept (s t : State) : Prop := t.cpsr.t = s.cpsr.t ∧ t.ended = s.ended

/-- Every byte of memory is unchanged. -/
def MemKept (s t : State) : Prop := ∀ a, readByte t.mem a = readByte s.mem a

/-- Every byte of memory outside the `n` bytes at `a` is unchanged. -/
def MemKeptOutside (a : Word) (n : Nat) (s t : State) : Prop :=
  ∀ b, b ∉ byteAddrs a n → readByte t.mem b = readByte s.mem b

/-- The frame of an instruction in Thumb state that writes at most the listed registers, the flags, the pc and
memory. -/
def Frame (rs : List PhysReg) (s t : State) : Prop := RegsKept rs s t ∧ SystemKept s t ∧ StateKept s t

/-- The frame with memory unchanged, moving on to the next instruction. -/
def MovesOn (rs : List PhysReg) (s t : State) : Prop := Frame rs s t ∧ MemKept s t ∧ t.pc = s.pc + 2#32

/-- The state has left Thumb state for the given cause, changing the listed registers, the pc and T alone (R7). -/
def LeavesThumb (c : Cause) (rs : List PhysReg) (s t : State) : Prop :=
  RegsKept rs s t ∧ SystemKept s t ∧ FlagsKept s t ∧ MemKept s t ∧ t.cpsr.t = false ∧ t.ended = some (.leftThumb c)

/-- The state stays in Thumb state after a branch that changes the listed registers and the pc alone. -/
def StaysThumb (rs : List PhysReg) (s t : State) : Prop :=
  RegsKept rs s t ∧ SystemKept s t ∧ FlagsKept s t ∧ MemKept s t ∧ t.cpsr.t = true ∧ t.ended = s.ended

/-- LR of the current mode. -/
def lrOf (s : State) : PhysReg := .lr (bankOf s.cpsr.m)

/-- SP of the current mode. -/
def spOf (s : State) : PhysReg := .sp (bankOf s.cpsr.m)

/-! Results and flags in plain arithmetic (42_data_processing.md R150). -/

/-- N is bit 31 of the result and Z says that it is 0. -/
def NZof (p : PSR) (r : Word) : Prop := p.n = r.getLsbD 31 ∧ p.z = decide (r = 0#32)

/-- The flags of `a + b + c`: C when the unsigned sum does not fit 32 bits, V when the signed sum does not. -/
def AddFlags (p : PSR) (a b : Word) (c : Nat) : Prop :=
  NZof p (a + b + BitVec.ofNat 32 c) ∧ p.c = decide (2 ^ 32 ≤ a.toNat + b.toNat + c) ∧
  p.v = decide (a.toInt + b.toInt + c < -2 ^ 31 ∨ 2 ^ 31 ≤ a.toInt + b.toInt + c)

/-- The flags of `a - b - c`: C when there is no borrow, V when the signed difference does not fit 32 bits. -/
def SubFlags (p : PSR) (a b : Word) (c : Nat) : Prop :=
  NZof p (a - b - BitVec.ofNat 32 c) ∧ p.c = decide (b.toNat + c ≤ a.toNat) ∧
  p.v = decide (a.toInt - b.toInt - c < -2 ^ 31 ∨ 2 ^ 31 ≤ a.toInt - b.toInt - c)

/-- The instruction completes, writing `a + b + c` to Rd with its flags and nothing else. -/
def Adds (i : Instr) (s : State) (d : LoReg) (a b : Word) (c : Nat) : Prop :=
  ∃ t, exec i s = .next t ∧ t.lo d = a + b + BitVec.ofNat 32 c ∧ AddFlags t.cpsr a b c ∧ MovesOn [.lo d] s t

/-- The instruction completes, writing `a - b - c` to Rd with its flags and nothing else. -/
def Subtracts (i : Instr) (s : State) (d : LoReg) (a b : Word) (c : Nat) : Prop :=
  ∃ t, exec i s = .next t ∧ t.lo d = a - b - BitVec.ofNat 32 c ∧ SubFlags t.cpsr a b c ∧ MovesOn [.lo d] s t

/-- The instruction completes, writing the flags of `a - b` and nothing else. -/
def Compares (i : Instr) (s : State) (a b : Word) : Prop :=
  ∃ t, exec i s = .next t ∧ SubFlags t.cpsr a b 0 ∧ MovesOn [] s t

/-- The instruction completes, writing `r` to Rd, N and Z from it, and nothing else. -/
def WritesLogic (i : Instr) (s : State) (d : LoReg) (r : Word) : Prop :=
  ∃ t, exec i s = .next t ∧ t.lo d = r ∧ NZof t.cpsr r ∧ t.cpsr.c = s.cpsr.c ∧ t.cpsr.v = s.cpsr.v ∧
    MovesOn [.lo d] s t

/-- The instruction completes, writing `r` to Rd, N and Z from it, C as given, and nothing else. -/
def WritesShift (i : Instr) (s : State) (d : LoReg) (r : Word) (c : Bool) : Prop :=
  ∃ t, exec i s = .next t ∧ t.lo d = r ∧ NZof t.cpsr r ∧ t.cpsr.c = c ∧ t.cpsr.v = s.cpsr.v ∧ MovesOn [.lo d] s t

/-- The instruction completes, writing `r` to one register and nothing else, no flag among it. -/
def WritesOnly (i : Instr) (s : State) (p : PhysReg) (r : Word) : Prop :=
  ∃ t, exec i s = .next t ∧ t.regs.get p = r ∧ FlagsKept s t ∧ MovesOn [p] s t

/-- The instruction branches to a target in Thumb state, T unchanged, and changes nothing else. -/
def BranchesTo (i : Instr) (s : State) (target : Word) : Prop :=
  ∃ t, exec i s = .next t ∧ t.pc = target ∧ Frame [] s t ∧ FlagsKept s t ∧ MemKept s t

/-- A left shift by `n` (00_scope.md R12): the value, and its carry-out for n at least 1. -/
def shiftedLeft (v : Word) (n : Nat) : Word := BitVec.ofNat 32 (v.toNat * 2 ^ n)

/-- The carry-out of a left shift by `n` at least 1 (R12). -/
def leftCarry (v : Word) (n : Nat) : Bool := decide (n ≤ 32) && v.getLsbD (32 - n)

/-- A logical right shift by `n` (R12). -/
def shiftedRight (v : Word) (n : Nat) : Word := BitVec.ofNat 32 (v.toNat / 2 ^ n)

/-- An arithmetic right shift by `n` (R12): the signed value divided by 2^n, rounded down. -/
def shiftedRightSigned (v : Word) (n : Nat) : Word := BitVec.ofInt 32 (v.toInt.fdiv (2 ^ n))

/-! Memory accesses in plain arithmetic. -/

/-- An access of `n` bytes at `a` is aligned and admitted (20_memory.md R53, R55, R56). -/
abbrev Accessible (s : State) (k : AccessKind) (a : Word) (n : Nat) : Prop :=
  a.toNat % n = 0 ∧ ∀ b ∈ byteAddrs a n, admitsByte s.params.mem k b = true

/-- Where in a value of `n` bytes the byte at offset `k` stands (R52). -/
def bytePlace (e : Endian) (n k : Nat) : Nat :=
  match e with
  | .little => k
  | .big => n - 1 - k

/-- The `n` bytes at `a` hold the low `n` bytes of `v` in the byte order (R52, R56). -/
def HoldsBytes (e : Endian) (m : Memory) (a : Word) (n : Nat) (v : Word) : Prop :=
  ∀ k < n, readByte m (a + BitVec.ofNat 32 k).toNat = v.extractLsb' (8 * bytePlace e n k) 8

/-- The unsigned value of the `n` bytes at `a` (R52): the sum of the bytes, each times its power of 256. -/
def bytesValue (e : Endian) (m : Memory) (a : Word) (n : Nat) : Nat :=
  ((List.range n).map fun k => (readByte m (a + BitVec.ofNat 32 k).toNat).toNat * 2 ^ (8 * bytePlace e n k)).sum

/-- The store completes: the `n` bytes at `a` hold `v`, every other byte, every register and flag is as before. -/
def Stores (i : Instr) (s : State) (a : Word) (n : Nat) (v : Word) : Prop :=
  ∃ t, exec i s = .next t ∧ HoldsBytes s.params.endian t.mem a n v ∧ MemKeptOutside a n s t ∧ Frame [] s t ∧
    FlagsKept s t ∧ t.pc = s.pc + 2#32

/-- The access a single transfer makes (43_load_store_single.md R220 to R237, 20_memory.md R58): its kind, address and
size in bytes. -/
def accessOf (i : Instr) (s : State) : Option (AccessKind × Word × Nat) :=
  match i with
  | .strReg _ n m => some (.write, s.lo n + s.lo m, 4)
  | .strhReg _ n m => some (.write, s.lo n + s.lo m, 2)
  | .strbReg _ n m => some (.write, s.lo n + s.lo m, 1)
  | .ldrsbReg _ n m => some (.read, s.lo n + s.lo m, 1)
  | .ldrReg _ n m => some (.read, s.lo n + s.lo m, 4)
  | .ldrhReg _ n m => some (.read, s.lo n + s.lo m, 2)
  | .ldrbReg _ n m => some (.read, s.lo n + s.lo m, 1)
  | .ldrshReg _ n m => some (.read, s.lo n + s.lo m, 2)
  | .strImm _ n off => some (.write, s.lo n + BitVec.ofNat 32 (4 * off.toNat), 4)
  | .ldrImm _ n off => some (.read, s.lo n + BitVec.ofNat 32 (4 * off.toNat), 4)
  | .strbImm _ n off => some (.write, s.lo n + BitVec.ofNat 32 off.toNat, 1)
  | .ldrbImm _ n off => some (.read, s.lo n + BitVec.ofNat 32 off.toNat, 1)
  | .strhImm _ n off => some (.write, s.lo n + BitVec.ofNat 32 (2 * off.toNat), 2)
  | .ldrhImm _ n off => some (.read, s.lo n + BitVec.ofNat 32 (2 * off.toNat), 2)
  | .strSp _ off => some (.write, s.sp + BitVec.ofNat 32 (4 * off.toNat), 4)
  | .ldrSp _ off => some (.read, s.sp + BitVec.ofNat 32 (4 * off.toNat), 4)
  | .ldrPc _ off => some (.read, BitVec.ofNat 32 ((s.pc + 4#32).toNat / 4 * 4 + 4 * off.toNat), 4)
  | _ => none

/-! Register lists (44_load_store_multiple.md R250). -/

/-- How many registers of the list are numbered below `i`. -/
def rank (list : BitVec 8) (i : Nat) : Nat := (List.range i).countP fun j => list.getLsbD j

/-- The address of the `j`-th word of a transfer that starts at `a`. -/
def wordAt (a : Word) (j : Nat) : Word := a + BitVec.ofNat 32 (4 * j)

/-- The registers of a list. -/
def namedRegs (list : BitVec 8) : List PhysReg :=
  ((List.range 8).filter fun i => list.getLsbD i).map fun i => .lo (BitVec.ofNat 3 i)

/-- Every byte outside the `k` words at `a` is unchanged. -/
def MemKeptOutsideWords (a : Word) (k : Nat) (s t : State) : Prop :=
  ∀ b, (∀ j < k, b ∉ byteAddrs (wordAt a j) 4) → readByte t.mem b = readByte s.mem b

/-- Instructions that work on registers alone, cannot be refused for their operands and never assign the pc: all of
DP1 to DP5 but MUL, DP7, DP8 and the first half of BL. -/
def registerOnly (i : Instr) : Bool :=
  match i with
  | .lslImm .. | .lsrImm .. | .asrImm .. | .addReg .. | .subReg .. | .addImm3 .. | .subImm3 .. | .movImm8 ..
  | .cmpImm8 .. | .addImm8 .. | .subImm8 .. | .andReg .. | .eorReg .. | .lslReg .. | .lsrReg .. | .asrReg ..
  | .adc .. | .sbc .. | .rorReg .. | .tst .. | .neg .. | .cmpReg .. | .cmn .. | .orr .. | .bic .. | .mvn ..
  | .addPc .. | .addRdSp .. | .addSp .. | .subSp .. | .blFirst .. => true
  | _ => false

/-- The conditional branches with one offset, each with its condition (40_branch.md R120, 30_encoding.md R95). -/
def conditionalBranches (off : BitVec 8) : List (Instr × Cond) :=
  [(.beq off, .eq), (.bne off, .ne), (.bcs off, .cs), (.bcc off, .cc), (.bmi off, .mi), (.bpl off, .pl),
    (.bvs off, .vs), (.bvc off, .vc), (.bhi off, .hi), (.bls off, .ls), (.bge off, .ge), (.blt off, .lt),
    (.bgt off, .gt), (.ble off, .le)]

/-- The flags after a MUL of result `r` (42_data_processing.md R150, R175): N and Z from it, V unchanged; C unchanged
under v5T, and under v4T the next free bit (U11), which is drawn. -/
def MulFlags (s t : State) (r : Word) : Prop :=
  NZof t.cpsr r ∧ t.cpsr.v = s.cpsr.v ∧
  (s.params.arch = .v5T → t.cpsr.c = s.cpsr.c ∧ t.freeIdx = s.freeIdx) ∧
  (s.params.arch = .v4T → t.cpsr.c = Config.freeBit s.freeIdx ∧ t.freeIdx = s.freeIdx + 1)

end Sys2Proof.Machine
end

