-- ==== Sys2Proof/Certificates/Slice0/Obligations.lean ====
section
/-! DEFINITION. The statements for the provers. Each docstring names the rule of spec/ it formalises; the terms are those
of Safety.lean, written in plain arithmetic apart from the model's operations. -/

open Sys2Proof Sys2Proof.Machine

/-! Encoding and decoding. -/

/-- Decoding what the encoder writes gives the instruction back, with every operand at every value, from the halfword
and from its bytes in either byte order, whatever follows (30_encoding.md R82 to R91). -/
def Obligations.DecodeAfterEncode : Prop :=
  ∀ i : Instr, decodeHalf (encode i) = i ∧
    ∀ (e : Endian) (rest : List Byte), decode e (encodeBytes e i ++ rest) = .ok (i, rest)

/-- Every halfword is the encoding of what it decodes to (R90: the procedure is total). -/
def Obligations.EncodeAfterDecode : Prop := ∀ w : Half, encode (decodeHalf w) = w

/-- Every halfword matches exactly one row of the opcode table, and that row is the decoded instruction's (R81, R90). -/
def Obligations.EveryHalfwordHasOneRow : Prop :=
  ∀ w : Half, opcodeRows.filter (fun r => r.matchesHalf w) = [opcodeRow (decodeHalf w)]

/-- Words written out from the encodings of several families decode to their instructions (R82 to R86, R91). -/
def Obligations.WordsDecodeAsWritten : Prop :=
  decodeHalf 0b0001101010001000#16 = .subReg 0#3 1#3 2#3 ∧ decodeHalf 0b0000111000000010#16 = .lsrImm 2#3 0#3 24#5 ∧
  decodeHalf 0b0100011011110111#16 = .movHi 15#4 14#4 ∧ decodeHalf 0b0101011010000011#16 = .ldrsbReg 3#3 0#3 2#3 ∧
  decodeHalf 0b0100100000000110#16 = .ldrPc 0#3 6#8 ∧ decodeHalf 0b1011010100010000#16 = .push true 0x10#8 ∧
  decodeHalf 0b1100000101111000#16 = .stmia 1#3 0x78#8 ∧ decodeHalf 0b1101000111111100#16 = .bne 0xFC#8 ∧
  decodeHalf 0b1101111100010001#16 = .swi 0x11#8 ∧ decodeHalf 0b1110100001111110#16 = .blxLabel 0x3F#10 ∧
  decodeHalf 0b1111111101111110#16 = .blSecond 0x77E#11 ∧ decodeHalf 0b1011111000000001#16 = .refuseU9 1#8

/-! Steps, reset, launch, invariants. -/

/-- In a running state with no exception pending, when the two bytes at the pc are admitted for fetch and decode to `i`,
one step is `i` executed at that state, and the step counted (00_scope.md R14, 20_memory.md R57). -/
def Obligations.StepRunsDecodedInstruction : Prop :=
  ∀ (s : State) (i : Instr), Running s → s.stepNo ∉ s.events.resetAt →
    (s.stepNo ∈ s.events.fiqAt → s.cpsr.f = true) → (s.stepNo ∈ s.events.irqAt → s.cpsr.i = true) →
    admitsByte s.params.mem .fetch s.pc.toNat = true → admitsByte s.params.mem .fetch (s.pc + 1#32).toNat = true →
    decode s.params.endian [readByte s.mem s.pc.toNat, readByte s.mem (s.pc + 1#32).toNat] = .ok (i, []) →
    step s = countStep (exec i s)

/-- The step of a state in which an instruction's word has been placed runs that instruction, whatever the state was:
`withFetchWord` stands for loading a program and entering Thumb state, the model's choice (log entry 5). -/
def Obligations.StepRunsPlacedWord : Prop :=
  ∀ (s : State) (i : Instr), s.mem.wf = true →
    step (s.withFetchWord 16 (encode i).toNat) = countStep (exec i (s.withFetchWord 16 (encode i).toNat))

/-- Before the fetch: Reset first, then FIQ when F = 0, then IRQ when I = 0; then a fetch that is not admitted is a
Prefetch abort (60_exceptions.md R285, R289, R278). That step numbers index lists of asserted inputs is the model's form
of R8's oracles (log entry 7). -/
def Obligations.StepTakesExceptionsByPriority : Prop :=
  ∀ s : State, Running s →
    (s.stepNo ∈ s.events.resetAt → step s = countStep (.next (takeException .reset s))) ∧
    (s.stepNo ∉ s.events.resetAt → s.stepNo ∈ s.events.fiqAt → s.cpsr.f = false →
      step s = countStep (.next (takeException .fiq s))) ∧
    (s.stepNo ∉ s.events.resetAt → (s.stepNo ∉ s.events.fiqAt ∨ s.cpsr.f = true) →
      s.stepNo ∈ s.events.irqAt → s.cpsr.i = false → step s = countStep (.next (takeException .irq s))) ∧
    (s.stepNo ∉ s.events.resetAt → (s.stepNo ∉ s.events.fiqAt ∨ s.cpsr.f = true) →
      (s.stepNo ∉ s.events.irqAt ∨ s.cpsr.i = true) →
      (admitsByte s.params.mem .fetch s.pc.toNat = false ∨
        admitsByte s.params.mem .fetch (s.pc + 1#32).toNat = false) →
      step s = countStep (.next (takeException (.prefetchAbort s.pc) s)))

/-- Outside a running Thumb state there is no successor, and the stop says why (00_scope.md R7); the names of the stops are
the model's (log entry 11). -/
def Obligations.StepStopsOutsideThumb : Prop :=
  ∀ s : State,
    (∀ c, s.ended = some (.leftThumb c) → step s = .fault (.leftThumb c)) ∧
    (s.ended = some .exited → step s = .fault .exited) ∧
    (s.ended = none → s.cpsr.t = false → step s = .fault .armState) ∧
    (Running s → ∀ f, step s ≠ .fault f)

/-- The reset state (70_reset_and_hazards.md R310): ARM state, Supervisor mode, IRQ and FIQ disabled, pc = 0; no step
runs from it. -/
def Obligations.ResetStateAsSpecified : Prop :=
  State.reset.cpsr.t = false ∧ State.reset.cpsr.m = .supervisor ∧ State.reset.cpsr.i = true ∧
  State.reset.cpsr.f = true ∧ State.reset.pc = 0x00000000#32 ∧ step State.reset = .fault .armState

/-- A launch (10_state.md R38, D8; 20_memory.md R66): an odd entry or overlapping writable and fetchable sets are refused
by name; every other launch gives a state: running Thumb code with what the launch gave, each byte at its last given
value, meeting the invariant, no byte both writable and fetchable. The model's choices: that every register and flag has a
value, what a byte the launch does not give reads as, and that an odd entry is named first (log entries 1, 3, 13, 16). -/
def Obligations.LaunchAsSpecified : Prop :=
  ∀ l : Launch,
    (l.entry.getLsbD 0 = true → launch l = .error .oddEntry) ∧
    (∀ a, l.entry.getLsbD 0 = false → inRegions l.params.mem.writable a = true →
      inRegions l.params.mem.fetchable a = true → launch l = .error .selfModifyingCode) ∧
    (l.entry.getLsbD 0 = false →
      (∀ a, inRegions l.params.mem.writable a = true → inRegions l.params.mem.fetchable a = false) →
      ∃ s, launch l = .ok s) ∧
    (∀ s, launch l = .ok s → Running s ∧ Inv s ∧ s.pc = l.entry ∧ s.cpsr.m = l.mode ∧ s.cpsr.i = l.i ∧
      s.cpsr.f = l.f ∧ s.cpsr.n = l.n ∧ s.cpsr.z = l.z ∧ s.cpsr.c = l.c ∧ s.cpsr.v = l.v ∧ s.regs = l.regs ∧
      s.params = l.params ∧ s.events = l.events ∧
      (∀ before a b after, l.contents = before ++ (a, b) :: after → a ∉ after.map Prod.fst → a < 2 ^ 32 →
        readByte s.mem a = b) ∧
      (∀ a, a ∉ l.contents.map Prod.fst → readByte s.mem a = unlistedByte) ∧
      (∀ a, inRegions s.params.mem.writable a = true → inRegions s.params.mem.fetchable a = false))

/-- The reset state meets the invariant; that its memory lists nothing is the model's choice (log entry 3). -/
def Obligations.ResetMeetsInvariant : Prop := Inv State.reset

/-- Every step keeps the invariant: memory canonical, the pc aligned (10_state.md R25, 20_memory.md R54), a left run in
ARM state (00_scope.md R7). -/
def Obligations.StepKeepsInvariant : Prop := ∀ s t : State, Inv s → step s = .next t → Inv t

/-- A step counts itself and never changes the parameters or the schedule of the inputs (R8). -/
def Obligations.StepKeepsParameters : Prop :=
  ∀ s t : State, step s = .next t → t.params = s.params ∧ t.events = s.events ∧ t.stepNo = s.stepNo + 1

/-- No step changes a byte that is not admitted for write; a fetchable byte never is (20_memory.md R56, R66): there is no
self-modifying code. Fetchable bytes fail write admission whatever the regions (log entry 8). -/
def Obligations.StepNeverWritesUnadmittedBytes : Prop :=
  ∀ s t : State, s.mem.wf = true → step s = .next t →
    (∀ a, admitsByte s.params.mem .write a = false → readByte t.mem a = readByte s.mem a) ∧
    (∀ a, admitsByte s.params.mem .fetch a = true → readByte t.mem a = readByte s.mem a)

/-- T is cleared exactly by leaving Thumb state (10_state.md R31, 00_scope.md R7): a step gives a state with T = 0 if and
only if it gives an end state LeftThumb. -/
def Obligations.ThumbStateLeftOnlyByEndStates : Prop :=
  ∀ s t : State, step s = .next t → (t.cpsr.t = false ↔ ∃ c, t.ended = some (.leftThumb c))

/-- Only an exception changes the mode, the masks, the reserved bits, an SPSR, or another mode's copy of a register
(10_state.md R32, R33, R24; 60_exceptions.md R288): every other step leaves them alone. -/
def Obligations.OnlyExceptionsChangeModeAndBanks : Prop :=
  ∀ s t : State, step s = .next t → (∀ e, t.ended ≠ some (.leftThumb (.exception e))) →
    t.cpsr.m = s.cpsr.m ∧ t.cpsr.i = s.cpsr.i ∧ t.cpsr.f = s.cpsr.f ∧ t.cpsr.reserved = s.cpsr.reserved ∧
    t.spsr = s.spsr ∧
    (∀ p, (∀ i : Reg, physOf s.cpsr.m i ≠ some p) → t.regs.get p = s.regs.get p)

/-! Exceptions. -/

/-- Taking an exception (60_exceptions.md R275 with the table of R271): vector, mode, masks, T; for every exception but
Reset, the saved status and link, and everything else unchanged; Reset leaves memory unchanged and asserts nothing of
the registers (R282; free values, log entry 10). -/
def Obligations.ExceptionEntryAsSpecified : Prop :=
  ∀ s : State,
    (∀ e, (takeException e s).cpsr.t = false ∧ (takeException e s).cpsr.i = true ∧
      (takeException e s).ended = some (.leftThumb (.exception e)) ∧ MemKept s (takeException e s)) ∧
    (takeException .reset s).pc = 0x00#32 ∧ (takeException .reset s).cpsr.m = .supervisor ∧
    (takeException .reset s).cpsr.f = true ∧
    (∀ (e : Exc) (vector link : Word) (m : Mode) (b : Bank) (f : Bool),
      ((e, vector, m, b, link, f) = (.undefinedInstruction, 0x04#32, .undefined, .und, s.pc + 2#32, s.cpsr.f) ∨
       (∃ imm, (e, vector, m, b, link, f) = (.softwareInterrupt imm, 0x08#32, .supervisor, .svc, s.pc + 2#32, s.cpsr.f)) ∨
       (∃ a, (e, vector, m, b, link, f) = (.prefetchAbort a, 0x0C#32, .abort, .abt, s.pc + 4#32, s.cpsr.f)) ∨
       (∃ a, (e, vector, m, b, link, f) = (.dataAbort a, 0x10#32, .abort, .abt, s.pc + 8#32, s.cpsr.f)) ∨
       (e, vector, m, b, link, f) = (.irq, 0x18#32, .irq, .irq, s.pc + 4#32, s.cpsr.f) ∨
       (e, vector, m, b, link, f) = (.fiq, 0x1C#32, .fiq, .fiq, s.pc + 4#32, true)) →
      (takeException e s).pc = vector ∧ (takeException e s).cpsr.m = m ∧ (takeException e s).cpsr.f = f ∧
      (takeException e s).regs.get (.lr b) = link ∧ RegsKept [.lr b] s (takeException e s) ∧
      (takeException e s).spsr.get b = some s.cpsr ∧
      (∀ c, c ≠ b → (takeException e s).spsr.get c = s.spsr.get c) ∧ FlagsKept s (takeException e s) ∧
      (takeException e s).cpsr.reserved = s.cpsr.reserved ∧ (takeException e s).output = s.output)

/-- The handler's return undoes the entry (60_exceptions.md R283, R284): with the exception's adjustment it restores the
whole CPSR and resumes after a SWI or an undefined instruction, and at the instruction itself after the others.
The return is an ARM instruction's effect, which no Thumb instruction has (log entry 14). -/
def Obligations.ReturnUndoesExceptionEntry : Prop :=
  ∀ (s : State) (e : Exc), e ≠ .reset → Running s →
    ∃ t, returnFromException (returnAdjust e) (takeException e s) = some t ∧ Running t ∧ t.cpsr = s.cpsr ∧
      t.pc = (match e with
        | .undefinedInstruction => s.pc + 2#32
        | .softwareInterrupt _ => s.pc + 2#32
        | _ => s.pc)

/-- Every UNDEFINED encoding, with the pattern it stands at, and the second half of BLX under v4T, takes the Undefined
instruction exception (30_encoding.md R91, 60_exceptions.md R277): the link is the instruction's address + 2, the whole
CPSR is saved, and the processor stands at vector 4 in Undefined mode and ARM state. -/
def Obligations.UndefinedEncodingsTakeException : Prop :=
  ∀ (s : State) (i : Instr),
    (∀ (x : BitVec 8) (y : BitVec 9) (z : BitVec 10), decodeHalf (0b10110001#8 ++ x) = .undB1 x ∧
      decodeHalf (0b1011001#7 ++ y) = .undB2 y ∧ decodeHalf (0b1011011#7 ++ y) = .undB6 y ∧
      decodeHalf (0b101110#6 ++ z) = .undB8 z ∧ decodeHalf (0b10111111#8 ++ x) = .undBF x ∧
      decodeHalf (0b11011110#8 ++ x) = .undDE x ∧ decodeHalf (0b11101#5 ++ z ++ 1#1) = .undE8 z) ∧
    (((∃ x, i = .undB1 x) ∨ (∃ x, i = .undB2 x) ∨ (∃ x, i = .undB6 x) ∨ (∃ x, i = .undB8 x) ∨ (∃ x, i = .undBF x) ∨
     (∃ x, i = .undDE x) ∨ (∃ x, i = .undE8 x) ∨ ((∃ x, i = .blxLabel x) ∧ s.params.arch = .v4T)) →
    ∃ t, exec i s = .next t ∧ t.pc = 0x00000004#32 ∧ t.cpsr.m = .undefined ∧ t.cpsr.t = false ∧ t.cpsr.i = true ∧
      t.cpsr.f = s.cpsr.f ∧ t.regs.get (.lr .und) = s.pc + 2#32 ∧ RegsKept [.lr .und] s t ∧ t.spsr.und = s.cpsr ∧
      (∀ b, b ≠ .und → t.spsr.get b = s.spsr.get b) ∧ FlagsKept s t ∧ t.cpsr.reserved = s.cpsr.reserved ∧
      MemKept s t ∧ t.params = s.params ∧ t.events = s.events ∧ t.output = s.output ∧
      t.ended = some (.leftThumb (.exception .undefinedInstruction)))

/-- SWI (41_swi.md R140): r14_svc, SPSR_svc, IRQ disabled, T cleared, Supervisor mode, pc at 0x08; F, the flags and every
other register are unchanged; the immediate is only the end state's label. -/
def Obligations.SoftwareInterruptEntry : Prop :=
  ∀ (s : State) (imm : BitVec 8), decodeHalf (0b11011111#8 ++ imm) = .swi imm ∧
    (s.params.swiEnv = .architectural →
      ∃ t, exec (.swi imm) s = .next t ∧ t.regs.get (.lr .svc) = s.pc + 2#32 ∧ t.spsr.svc = s.cpsr ∧
        t.cpsr.i = true ∧ t.cpsr.t = false ∧ t.cpsr.m = .supervisor ∧ t.pc = 0x00000008#32 ∧
        t.cpsr.f = s.cpsr.f ∧ FlagsKept s t ∧ t.cpsr.reserved = s.cpsr.reserved ∧ RegsKept [.lr .svc] s t ∧
        (∀ b, b ≠ .svc → t.spsr.get b = s.spsr.get b) ∧ MemKept s t ∧ t.params = s.params ∧ t.events = s.events ∧
        t.output = s.output ∧ t.ended = some (.leftThumb (.exception (.softwareInterrupt imm))))

/-- SWI under `SWI_ENV = semihost` (41_swi.md R141): 0x00 appends r0's low byte to the output, 0x11 ends the run, both
moving on with everything else unchanged; any other number is refused. That SWI 0x11 moves on too is the model's reading
(log entry 12). -/
def Obligations.SemihostCalls : Prop :=
  ∀ s : State, s.params.swiEnv = .semihost →
    (NotTop s → ∃ t, exec (.swi 0x00#8) s = .next t ∧ t.output = s.output ++ [(s.lo 0#3).extractLsb' 0 8] ∧
      t = { s with pc := s.pc + 2#32, output := t.output }) ∧
    (NotTop s → exec (.swi 0x11#8) s = .next { s with pc := s.pc + 2#32, ended := some .exited }) ∧
    (∀ imm, imm ≠ 0x00#8 → imm ≠ 0x11#8 → exec (.swi imm) s = .refused (.semihostCall imm))

/-- The space of section 7.8, 0xBE00 to 0xBEFF, is refused by name in every state (30_encoding.md R91, U9). -/
def Obligations.Section78SpaceRefused : Prop :=
  ∀ (s : State) (x : BitVec 8), exec (decodeHalf (0xBE#8 ++ x)) s = .refused .section78Space

/-- The operand restrictions (30_encoding.md R92): each is refused under its own name. -/
def Obligations.OperandRestrictionsRefused : Prop :=
  ∀ s : State,
    (∀ d m : Reg, d.toNat < 8 → m.toNat < 8 → exec (.addHi d m) s = .refused .bothLo ∧
      exec (.cmpHi d m) s = .refused .bothLo ∧ exec (.movHi d m) s = .refused .bothLo) ∧
    (∀ (m : Reg) (z : BitVec 3), z ≠ 0#3 → exec (.bx m z) s = .refused .sbzNonzero ∧
      (s.params.arch = .v5T → exec (.blxReg m z) s = .refused .sbzNonzero)) ∧
    (s.params.arch = .v5T → exec (.blxReg 15#4 0#3) s = .refused .blxPc) ∧
    (∀ m : Reg, (s.reg m).getLsbD 0 = false → (s.reg m).getLsbD 1 = true →
      exec (.bx m 0#3) s = .refused (.armTargetUnaligned (s.reg m)) ∧
      (s.params.arch = .v5T → m ≠ 15#4 → exec (.blxReg m 0#3) s = .refused (.armTargetUnaligned (s.reg m)))) ∧
    (∀ m : Reg, s.params.arch = .v4T → exec (.blxReg m 0#3) s = .refused .blxRegV4T) ∧
    (∀ d : LoReg, s.params.mulSameReg = .refuse → exec (.mul d d) s = .refused .mulSameReg) ∧
    (∀ (n : LoReg) (list : BitVec 8), list.getLsbD n.toNat = true →
      exec (.stmia n list) s = .refused .baseInList ∧ exec (.ldmia n list) s = .refused .baseInList) ∧
    (∀ n : LoReg, exec (.stmia n 0#8) s = .refused .emptyList ∧ exec (.ldmia n 0#8) s = .refused .emptyList) ∧
    exec (.push false 0#8) s = .refused .emptyList ∧ exec (.pop false 0#8) s = .refused .emptyList ∧
    (∀ list : BitVec 8, s.params.arch = .v5T → (∀ j ≤ rank list 8, Accessible s .read (wordAt s.sp j) 4) →
      ∀ v, v = BitVec.ofNat 32 (bytesValue s.params.endian s.mem (wordAt s.sp (rank list 8)) 4) →
        v.getLsbD 0 = false → v.getLsbD 1 = true → exec (.pop true list) s = .refused (.popTargetUnaligned v)) ∧
    (∀ d m : Reg, (8 ≤ d.toNat ∨ 8 ≤ m.toNat) → (d = 15#4 ∨ m = 15#4) → exec (.cmpHi d m) s = .refused .cmpHiPc)

/-- Sequential execution from 0xFFFFFFFE to 0 is refused (10_state.md R28), for every instruction that completes there
without assigning the pc: the instructions that work on registers alone, MUL, the Hi-register forms whose destination is
not the pc, each conditional branch not taken, the transfers whose accesses are granted, and the two semihost calls. The
model's readings (DEDUCED): that the semihost calls are refused there too, SWI 0x11 among them instead of ending the run
(log entry 12), and that other refusals and aborts come first (log entry 13). -/
def Obligations.SequentialWrapRefused : Prop :=
  ∀ s : State, s.pc = 0xFFFFFFFE#32 →
    (∀ i, registerOnly i = true → exec i s = .refused .sequentialWrap) ∧
    (∀ d m : LoReg, (d ≠ m ∨ s.params.mulSameReg = .compute) → exec (.mul d m) s = .refused .sequentialWrap) ∧
    (∀ d m : Reg, (8 ≤ d.toNat ∨ 8 ≤ m.toNat) → d ≠ 15#4 →
      exec (.addHi d m) s = .refused .sequentialWrap ∧ exec (.movHi d m) s = .refused .sequentialWrap ∧
      (m ≠ 15#4 → exec (.cmpHi d m) s = .refused .sequentialWrap)) ∧
    (∀ (off : BitVec 8) (i : Instr) (c : Cond), (i, c) ∈ conditionalBranches off → conditionPassed c s.cpsr = false →
      exec i s = .refused .sequentialWrap) ∧
    (∀ i k a n, accessOf i s = some (k, a, n) → Accessible s k a n → exec i s = .refused .sequentialWrap) ∧
    (∀ (n : LoReg) (list : BitVec 8), list ≠ 0#8 → list.getLsbD n.toNat = false →
      ((∀ j < rank list 8, Accessible s .write (wordAt (s.lo n) j) 4) →
        exec (.stmia n list) s = .refused .sequentialWrap) ∧
      ((∀ j < rank list 8, Accessible s .read (wordAt (s.lo n) j) 4) →
        exec (.ldmia n list) s = .refused .sequentialWrap)) ∧
    (∀ (r : Bool) (list : BitVec 8) (k : Nat), k = rank list 8 + r.toNat → k ≠ 0 →
      (∀ j < k, Accessible s .write (wordAt (s.sp - BitVec.ofNat 32 (4 * k)) j) 4) →
      exec (.push r list) s = .refused .sequentialWrap) ∧
    (∀ list : BitVec 8, list ≠ 0#8 → (∀ j < rank list 8, Accessible s .read (wordAt s.sp j) 4) →
      exec (.pop false list) s = .refused .sequentialWrap) ∧
    (s.params.swiEnv = .semihost → exec (.swi 0x00#8) s = .refused .sequentialWrap ∧
      exec (.swi 0x11#8) s = .refused .sequentialWrap)

/-! Data processing (42_data_processing.md). -/

/-- ADD and SUB with three registers or a 3-bit immediate (R151 to R154): encoding, result, flags, and nothing else. -/
def Obligations.AddSubtractThreeOperands : Prop :=
  ∀ (s : State) (d n m : LoReg) (imm : BitVec 3),
    decodeHalf (0b0001100#7 ++ m ++ n ++ d) = .addReg d n m ∧ decodeHalf (0b0001101#7 ++ m ++ n ++ d) = .subReg d n m ∧
    decodeHalf (0b0001110#7 ++ imm ++ n ++ d) = .addImm3 d n imm ∧
    decodeHalf (0b0001111#7 ++ imm ++ n ++ d) = .subImm3 d n imm ∧
    (NotTop s → Adds (.addReg d n m) s d (s.lo n) (s.lo m) 0 ∧ Subtracts (.subReg d n m) s d (s.lo n) (s.lo m) 0 ∧
      Adds (.addImm3 d n imm) s d (s.lo n) (BitVec.ofNat 32 imm.toNat) 0 ∧
      Subtracts (.subImm3 d n imm) s d (s.lo n) (BitVec.ofNat 32 imm.toNat) 0)

/-- MOV, CMP, ADD and SUB with an 8-bit immediate (R155 to R158). -/
def Obligations.ImmediateEightBit : Prop :=
  ∀ (s : State) (d : LoReg) (imm : BitVec 8),
    decodeHalf (0b00100#5 ++ d ++ imm) = .movImm8 d imm ∧ decodeHalf (0b00101#5 ++ d ++ imm) = .cmpImm8 d imm ∧
    decodeHalf (0b00110#5 ++ d ++ imm) = .addImm8 d imm ∧ decodeHalf (0b00111#5 ++ d ++ imm) = .subImm8 d imm ∧
    (NotTop s → WritesLogic (.movImm8 d imm) s d (BitVec.ofNat 32 imm.toNat) ∧
      Compares (.cmpImm8 d imm) s (s.lo d) (BitVec.ofNat 32 imm.toNat) ∧
      Adds (.addImm8 d imm) s d (s.lo d) (BitVec.ofNat 32 imm.toNat) 0 ∧
      Subtracts (.subImm8 d imm) s d (s.lo d) (BitVec.ofNat 32 imm.toNat) 0)

/-- Shifts by an immediate (R159 to R161): LSL by 0 keeps C; the field 0 of LSR and ASR means 32. -/
def Obligations.ShiftsByImmediate : Prop :=
  ∀ (s : State) (d m : LoReg) (sh : BitVec 5),
    decodeHalf (0b00000#5 ++ sh ++ m ++ d) = .lslImm d m sh ∧ decodeHalf (0b00001#5 ++ sh ++ m ++ d) = .lsrImm d m sh ∧
    decodeHalf (0b00010#5 ++ sh ++ m ++ d) = .asrImm d m sh ∧
    (NotTop s →
      WritesShift (.lslImm d m sh) s d (shiftedLeft (s.lo m) sh.toNat)
        (if sh = 0#5 then s.cpsr.c else leftCarry (s.lo m) sh.toNat) ∧
      WritesShift (.lsrImm d m sh) s d (shiftedRight (s.lo m) (if sh = 0#5 then 32 else sh.toNat))
        ((s.lo m).getLsbD ((if sh = 0#5 then 32 else sh.toNat) - 1)) ∧
      WritesShift (.asrImm d m sh) s d (shiftedRightSigned (s.lo m) (if sh = 0#5 then 32 else sh.toNat))
        ((s.lo m).getLsbD ((if sh = 0#5 then 32 else sh.toNat) - 1)))

/-- Shifts and the rotate by a register (R164 to R166, R169): the amount is the low byte of Rs, 0 keeps C, amounts of 32
and more are defined. -/
def Obligations.ShiftsByRegister : Prop :=
  ∀ (s : State) (d r : LoReg) (v : Word) (n : Nat), v = s.lo d → n = (s.lo r).toNat % 256 →
    decodeHalf (0b0100000010#10 ++ r ++ d) = .lslReg d r ∧ decodeHalf (0b0100000011#10 ++ r ++ d) = .lsrReg d r ∧
    decodeHalf (0b0100000100#10 ++ r ++ d) = .asrReg d r ∧ decodeHalf (0b0100000111#10 ++ r ++ d) = .rorReg d r ∧
    (NotTop s →
      WritesShift (.lslReg d r) s d (shiftedLeft v n) (if n = 0 then s.cpsr.c else leftCarry v n) ∧
      WritesShift (.lsrReg d r) s d (shiftedRight v n) (if n = 0 then s.cpsr.c else v.getLsbD (n - 1)) ∧
      WritesShift (.asrReg d r) s d (shiftedRightSigned v n)
        (if n = 0 then s.cpsr.c else v.getLsbD (min n 32 - 1)) ∧
      WritesShift (.rorReg d r) s d (v.rotateRight n) (if n = 0 then s.cpsr.c else (v.rotateRight n).getLsbD 31))

/-- AND, EOR, ORR, BIC, MVN and TST (R162, R163, R174, R176, R177, R170), bit by bit; C and V are unchanged. -/
def Obligations.BitwiseOperations : Prop :=
  ∀ (s : State) (d m : LoReg),
    decodeHalf (0b0100000000#10 ++ m ++ d) = .andReg d m ∧ decodeHalf (0b0100000001#10 ++ m ++ d) = .eorReg d m ∧
    decodeHalf (0b0100001100#10 ++ m ++ d) = .orr d m ∧ decodeHalf (0b0100001110#10 ++ m ++ d) = .bic d m ∧
    decodeHalf (0b0100001111#10 ++ m ++ d) = .mvn d m ∧ decodeHalf (0b0100001000#10 ++ m ++ d) = .tst d m ∧
    (NotTop s → ∃ rAnd rEor rOrr rBic rMvn : Word,
      (∀ k < 32, rAnd.getLsbD k = ((s.lo d).getLsbD k && (s.lo m).getLsbD k) ∧
        rEor.getLsbD k = ((s.lo d).getLsbD k ^^ (s.lo m).getLsbD k) ∧
        rOrr.getLsbD k = ((s.lo d).getLsbD k || (s.lo m).getLsbD k) ∧
        rBic.getLsbD k = ((s.lo d).getLsbD k && !(s.lo m).getLsbD k) ∧ rMvn.getLsbD k = !(s.lo m).getLsbD k) ∧
      WritesLogic (.andReg d m) s d rAnd ∧ WritesLogic (.eorReg d m) s d rEor ∧ WritesLogic (.orr d m) s d rOrr ∧
      WritesLogic (.bic d m) s d rBic ∧ WritesLogic (.mvn d m) s d rMvn ∧
      (∃ t, exec (.tst d m) s = .next t ∧ NZof t.cpsr rAnd ∧ t.cpsr.c = s.cpsr.c ∧ t.cpsr.v = s.cpsr.v ∧ MovesOn [] s t))

/-- ADC and SBC (R167, R168): C = 0 on entry of SBC means one more to borrow. -/
def Obligations.CarryArithmetic : Prop :=
  ∀ (s : State) (d m : LoReg),
    decodeHalf (0b0100000101#10 ++ m ++ d) = .adc d m ∧ decodeHalf (0b0100000110#10 ++ m ++ d) = .sbc d m ∧
    (NotTop s → Adds (.adc d m) s d (s.lo d) (s.lo m) (if s.cpsr.c then 1 else 0) ∧
      Subtracts (.sbc d m) s d (s.lo d) (s.lo m) (if s.cpsr.c then 0 else 1))

/-- NEG, CMP of two Lo registers, and CMN (R171 to R173). -/
def Obligations.NegateAndCompare : Prop :=
  ∀ (s : State) (d m : LoReg),
    decodeHalf (0b0100001001#10 ++ m ++ d) = .neg d m ∧ decodeHalf (0b0100001010#10 ++ m ++ d) = .cmpReg d m ∧
    decodeHalf (0b0100001011#10 ++ m ++ d) = .cmn d m ∧
    (NotTop s → Subtracts (.neg d m) s d 0#32 (s.lo m) 0 ∧ Compares (.cmpReg d m) s (s.lo d) (s.lo m) ∧
      (∃ t, exec (.cmn d m) s = .next t ∧ AddFlags t.cpsr (s.lo d) (s.lo m) 0 ∧ MovesOn [] s t))

/-- MUL (R175): the low 32 bits of the product; N and Z from it; V unchanged; C unchanged under v5T and free under v4T;
Rd = Rm is refused or computed as `MUL_SAME_REG` says. The free bit and its counter are the model's form of "any value"
(U11, log entry 9). -/
def Obligations.MultiplyLowProduct : Prop :=
  ∀ (s : State) (d m : LoReg), decodeHalf (0b0100001101#10 ++ m ++ d) = .mul d m ∧
    (d = m → s.params.mulSameReg = .refuse → exec (.mul d m) s = .refused .mulSameReg) ∧
    (NotTop s → (d ≠ m ∨ s.params.mulSameReg = .compute) →
      ∃ t, exec (.mul d m) s = .next t ∧ (t.lo d).toNat = (s.lo d).toNat * (s.lo m).toNat % 2 ^ 32 ∧
        MulFlags s t (t.lo d) ∧ RegsKept [.lo d] s t ∧ t.spsr = s.spsr ∧ t.cpsr.reserved = s.cpsr.reserved ∧
        t.cpsr.i = s.cpsr.i ∧ t.cpsr.f = s.cpsr.f ∧ t.cpsr.m = s.cpsr.m ∧ t.params = s.params ∧
        t.events = s.events ∧ t.stepNo = s.stepNo ∧ t.output = s.output ∧ StateKept s t ∧ MemKept s t ∧
        t.pc = s.pc + 2#32)

/-- ADD and MOV with a Hi register (R178, R180): no flag changes; with Rd = PC they branch to the value with bit 0
cleared, in Thumb state; r15 reads as the instruction's address plus 4; both registers Lo is refused. -/
def Obligations.HiRegisterAddAndMove : Prop :=
  ∀ (s : State) (d m : Reg),
    decodeHalf (0b01000100#8 ++ d.extractLsb' 3 1 ++ m ++ d.extractLsb' 0 3) = .addHi d m ∧
    decodeHalf (0b01000110#8 ++ d.extractLsb' 3 1 ++ m ++ d.extractLsb' 0 3) = .movHi d m ∧
    s.reg 15#4 = s.pc + 4#32 ∧
    (d.toNat < 8 → m.toNat < 8 →
      exec (.addHi d m) s = .refused .bothLo ∧ exec (.movHi d m) s = .refused .bothLo) ∧
    (∀ p, (8 ≤ d.toNat ∨ 8 ≤ m.toNat) → physOf s.cpsr.m d = some p → NotTop s →
      WritesOnly (.addHi d m) s p (s.regs.get p + s.reg m) ∧ WritesOnly (.movHi d m) s p (s.reg m)) ∧
    (d = 15#4 → BranchesTo (.addHi d m) s (((s.pc + 4#32) + s.reg m) &&& 0xFFFFFFFE#32) ∧
      BranchesTo (.movHi d m) s (s.reg m &&& 0xFFFFFFFE#32))

/-- CMP with a Hi register (R179): the flags of the difference; both Lo or r15 is refused. -/
def Obligations.HiRegisterCompare : Prop :=
  ∀ (s : State) (n m : Reg),
    decodeHalf (0b01000101#8 ++ n.extractLsb' 3 1 ++ m ++ n.extractLsb' 0 3) = .cmpHi n m ∧
    (n.toNat < 8 → m.toNat < 8 → exec (.cmpHi n m) s = .refused .bothLo) ∧
    ((8 ≤ n.toNat ∨ 8 ≤ m.toNat) → (n = 15#4 ∨ m = 15#4) → exec (.cmpHi n m) s = .refused .cmpHiPc) ∧
    ((8 ≤ n.toNat ∨ 8 ≤ m.toNat) → n ≠ 15#4 → m ≠ 15#4 → NotTop s → Compares (.cmpHi n m) s (s.reg n) (s.reg m))

/-- Address generation and the stack pointer (R181 to R184): the word count times 4, from the PC value rounded down to a
word, or from SP; no flag changes. -/
def Obligations.AddressGenerationAndStackPointer : Prop :=
  ∀ (s : State) (d : LoReg) (imm : BitVec 8) (imm7 : BitVec 7),
    decodeHalf (0b10100#5 ++ d ++ imm) = .addPc d imm ∧ decodeHalf (0b10101#5 ++ d ++ imm) = .addRdSp d imm ∧
    decodeHalf (0b101100000#9 ++ imm7) = .addSp imm7 ∧ decodeHalf (0b101100001#9 ++ imm7) = .subSp imm7 ∧
    (NotTop s →
      WritesOnly (.addPc d imm) s (.lo d) (BitVec.ofNat 32 ((s.pc + 4#32).toNat / 4 * 4 + 4 * imm.toNat)) ∧
      WritesOnly (.addRdSp d imm) s (.lo d) (s.sp + BitVec.ofNat 32 (4 * imm.toNat)) ∧
      WritesOnly (.addSp imm7) s (spOf s) (s.sp + BitVec.ofNat 32 (4 * imm7.toNat)) ∧
      WritesOnly (.subSp imm7) s (spOf s) (s.sp - BitVec.ofNat 32 (4 * imm7.toNat)))

/-! Branches (40_branch.md). -/

/-- Each conditional branch (R120) is taken exactly when its condition of R95 holds, to pc + 4 plus twice the signed
offset; not taken it moves on (from the last halfword of the address space it is refused, R28); it changes nothing but
the pc. -/
def Obligations.ConditionalBranches : Prop :=
  ∀ (s : State) (off : BitVec 8) (i : Instr) (code : BitVec 4) (taken : Prop),
    ((i, code, taken) = (.beq off, 0b0000#4, s.cpsr.z = true) ∨ (i, code, taken) = (.bne off, 0b0001#4, s.cpsr.z = false) ∨
     (i, code, taken) = (.bcs off, 0b0010#4, s.cpsr.c = true) ∨ (i, code, taken) = (.bcc off, 0b0011#4, s.cpsr.c = false) ∨
     (i, code, taken) = (.bmi off, 0b0100#4, s.cpsr.n = true) ∨ (i, code, taken) = (.bpl off, 0b0101#4, s.cpsr.n = false) ∨
     (i, code, taken) = (.bvs off, 0b0110#4, s.cpsr.v = true) ∨ (i, code, taken) = (.bvc off, 0b0111#4, s.cpsr.v = false) ∨
     (i, code, taken) = (.bhi off, 0b1000#4, s.cpsr.c = true ∧ s.cpsr.z = false) ∨
     (i, code, taken) = (.bls off, 0b1001#4, s.cpsr.c = false ∨ s.cpsr.z = true) ∨
     (i, code, taken) = (.bge off, 0b1010#4, s.cpsr.n = s.cpsr.v) ∨
     (i, code, taken) = (.blt off, 0b1011#4, s.cpsr.n ≠ s.cpsr.v) ∨
     (i, code, taken) = (.bgt off, 0b1100#4, s.cpsr.z = false ∧ s.cpsr.n = s.cpsr.v) ∨
     (i, code, taken) = (.ble off, 0b1101#4, s.cpsr.z = true ∨ s.cpsr.n ≠ s.cpsr.v)) →
    decodeHalf (0b1101#4 ++ code ++ off) = i ∧
    (taken → BranchesTo i s (s.pc + 4#32 + BitVec.ofInt 32 (2 * off.toInt))) ∧
    (¬ taken → NotTop s → BranchesTo i s (s.pc + 2#32)) ∧
    (¬ taken → ¬ NotTop s → exec i s = .refused .sequentialWrap)

/-- The unconditional branch (R121) goes to pc + 4 plus twice the signed offset, in every state. -/
def Obligations.UnconditionalBranch : Prop :=
  ∀ (s : State) (off : BitVec 11), decodeHalf (0b11100#5 ++ off) = .b off ∧
    BranchesTo (.b off) s (s.pc + 4#32 + BitVec.ofInt 32 (2 * off.toInt))

/-- The two halves of BL (R122, R123): the first leaves pc + 4 plus the signed offset times 4096 in LR and moves on; the
second branches to LR plus twice its unsigned offset and leaves the return address with bit 0 set. -/
def Obligations.BranchWithLinkHalves : Prop :=
  ∀ (s : State) (off : BitVec 11),
    decodeHalf (0b11110#5 ++ off) = .blFirst off ∧ decodeHalf (0b11111#5 ++ off) = .blSecond off ∧
    (NotTop s → WritesOnly (.blFirst off) s (lrOf s) (s.pc + 4#32 + BitVec.ofInt 32 (4096 * off.toInt))) ∧
    (∃ t, exec (.blSecond off) s = .next t ∧ t.pc = (s.lr + BitVec.ofNat 32 (2 * off.toNat)) &&& 0xFFFFFFFE#32 ∧
      t.lr = (s.pc + 2#32) ||| 1#32 ∧ Frame [lrOf s] s t ∧ FlagsKept s t ∧ MemKept s t)

/-- The second half of BLX (R124): under v5T to LR plus twice the offset rounded down to a word, in ARM state, with the
return address in LR; under v4T, and with bit 0 of the encoding set, it is UNDEFINED. -/
def Obligations.BranchWithLinkExchangeLabel : Prop :=
  ∀ (s : State) (off : BitVec 10), decodeHalf (0b11101#5 ++ off ++ 0#1) = .blxLabel off ∧
    decodeHalf (0b11101#5 ++ off ++ 1#1) = .undE8 off ∧
    (s.params.arch = .v4T → exec (.blxLabel off) s = .next (takeException .undefinedInstruction s)) ∧
    (s.params.arch = .v5T → ∃ t, exec (.blxLabel off) s = .next t ∧
      t.pc = (s.lr + BitVec.ofNat 32 (4 * off.toNat)) &&& 0xFFFFFFFC#32 ∧ t.lr = (s.pc + 2#32) ||| 1#32 ∧
      LeavesThumb .blx [lrOf s] s t)

/-- BX (R125): bit 0 of the register selects the state; an ARM target must be word-aligned; r15 reads as the
instruction's address plus 4. -/
def Obligations.BranchExchange : Prop :=
  ∀ (s : State) (m : Reg), decodeHalf (0b010001110#9 ++ m ++ 0b000#3) = .bx m 0#3 ∧
    s.reg 15#4 = s.pc + 4#32 ∧
    ((s.reg m).getLsbD 0 = true →
      ∃ t, exec (.bx m 0#3) s = .next t ∧ t.pc = s.reg m &&& 0xFFFFFFFE#32 ∧ StaysThumb [] s t) ∧
    ((s.reg m).getLsbD 0 = false → (s.reg m).getLsbD 1 = false →
      ∃ t, exec (.bx m 0#3) s = .next t ∧ t.pc = s.reg m ∧ LeavesThumb .bx [] s t) ∧
    ((s.reg m).getLsbD 0 = false → (s.reg m).getLsbD 1 = true →
      exec (.bx m 0#3) s = .refused (.armTargetUnaligned (s.reg m))) ∧
    (∀ z : BitVec 3, z ≠ 0#3 → exec (.bx m z) s = .refused .sbzNonzero)

/-- BLX Rm under v5T (R126): as BX, reading the target before it leaves the return address in LR; Rm = r15 is refused;
under v4T the encoding is refused. -/
def Obligations.BranchLinkExchangeRegister : Prop :=
  ∀ (s : State) (m : Reg), decodeHalf (0b010001111#9 ++ m ++ 0b000#3) = .blxReg m 0#3 ∧
    (s.params.arch = .v4T → exec (.blxReg m 0#3) s = .refused .blxRegV4T ∧
      ∀ z : BitVec 3, exec (.blxReg m z) s = .refused .sbzNonzero ∨ exec (.blxReg m z) s = .refused .blxRegV4T) ∧
    (s.params.arch = .v5T →
      (∀ z : BitVec 3, z ≠ 0#3 → exec (.blxReg m z) s = .refused .sbzNonzero) ∧
      (m = 15#4 → exec (.blxReg m 0#3) s = .refused .blxPc) ∧
      (m ≠ 15#4 → (s.reg m).getLsbD 0 = true →
        ∃ t, exec (.blxReg m 0#3) s = .next t ∧ t.pc = s.reg m &&& 0xFFFFFFFE#32 ∧
          t.lr = (s.pc + 2#32) ||| 1#32 ∧ StaysThumb [lrOf s] s t) ∧
      (m ≠ 15#4 → (s.reg m).getLsbD 0 = false → (s.reg m).getLsbD 1 = false →
        ∃ t, exec (.blxReg m 0#3) s = .next t ∧ t.pc = s.reg m ∧ t.lr = (s.pc + 2#32) ||| 1#32 ∧
          LeavesThumb .blx [lrOf s] s t) ∧
      (m ≠ 15#4 → (s.reg m).getLsbD 0 = false → (s.reg m).getLsbD 1 = true →
        exec (.blxReg m 0#3) s = .refused (.armTargetUnaligned (s.reg m))))

/-- The pair an assembler emits for `BL label` (R127) reaches any even target within reach and leaves the address after
the pair, with bit 0 set, in LR; and the pair for `BLX label` reaches any word in ARM state. -/
def Obligations.BranchLinkPairReachesTarget : Prop :=
  ∀ (s : State) (g off : Word), NotTop s → s.pc.getLsbD 0 = false → -4194304 ≤ off.toInt → off.toInt ≤ 4194302 →
    (off = g - (s.pc + 4#32) → g.getLsbD 0 = false →
      ∃ t u, exec (decodeHalf (0xF000#16 ||| (off.extractLsb' 12 11).setWidth 16)) s = .next t ∧
        exec (decodeHalf (0xF800#16 ||| (off.extractLsb' 1 11).setWidth 16)) t = .next u ∧
        u.pc = g ∧ u.lr = s.pc + 5#32 ∧ StateKept s u) ∧
    (off = g - ((s.pc + 4#32) &&& 0xFFFFFFFC#32) → g.getLsbD 0 = false → g.getLsbD 1 = false →
      s.params.arch = .v5T →
      ∃ t u, exec (decodeHalf (0xF000#16 ||| (off.extractLsb' 12 11).setWidth 16)) s = .next t ∧
        exec (decodeHalf (0xE800#16 ||| (off.extractLsb' 1 11).setWidth 16)) t = .next u ∧
        u.pc = g ∧ u.lr = s.pc + 5#32 ∧ u.cpsr.t = false ∧ u.ended = some (.leftThumb .blx))

/-! Single transfers (43_load_store_single.md, 20_memory.md). -/

/-- Word stores (R221, R227, R236): the word lands at the effective address in the byte order, and nothing else
changes. -/
def Obligations.WordStores : Prop :=
  ∀ (s : State) (d n m : LoReg) (o5 : BitVec 5) (o8 : BitVec 8),
    decodeHalf (0b01100#5 ++ o5 ++ n ++ d) = .strImm d n o5 ∧ decodeHalf (0b0101000#7 ++ m ++ n ++ d) = .strReg d n m ∧
    decodeHalf (0b10010#5 ++ d ++ o8) = .strSp d o8 ∧
    eaWord5 s n o5 = s.lo n + BitVec.ofNat 32 (4 * o5.toNat) ∧ eaReg s n m = s.lo n + s.lo m ∧
    eaSp s o8 = s.sp + BitVec.ofNat 32 (4 * o8.toNat) ∧
    (NotTop s → s.mem.wf = true →
      (Accessible s .write (eaWord5 s n o5) 4 → Stores (.strImm d n o5) s (eaWord5 s n o5) 4 (s.lo d)) ∧
      (Accessible s .write (eaReg s n m) 4 → Stores (.strReg d n m) s (eaReg s n m) 4 (s.lo d)) ∧
      (Accessible s .write (eaSp s o8) 4 → Stores (.strSp d o8) s (eaSp s o8) 4 (s.lo d)))

/-- Halfword and byte stores (R225, R228, R223, R229): the low bits of Rd land at the effective address, and nothing else
changes. -/
def Obligations.NarrowStores : Prop :=
  ∀ (s : State) (d n m : LoReg) (o5 : BitVec 5),
    decodeHalf (0b10000#5 ++ o5 ++ n ++ d) = .strhImm d n o5 ∧ decodeHalf (0b0101001#7 ++ m ++ n ++ d) = .strhReg d n m ∧
    decodeHalf (0b01110#5 ++ o5 ++ n ++ d) = .strbImm d n o5 ∧ decodeHalf (0b0101010#7 ++ m ++ n ++ d) = .strbReg d n m ∧
    eaHalf5 s n o5 = s.lo n + BitVec.ofNat 32 (2 * o5.toNat) ∧ eaByte5 s n o5 = s.lo n + BitVec.ofNat 32 o5.toNat ∧
    eaReg s n m = s.lo n + s.lo m ∧
    (NotTop s → s.mem.wf = true →
      (Accessible s .write (eaHalf5 s n o5) 2 → Stores (.strhImm d n o5) s (eaHalf5 s n o5) 2 (s.lo d)) ∧
      (Accessible s .write (eaReg s n m) 2 → Stores (.strhReg d n m) s (eaReg s n m) 2 (s.lo d)) ∧
      (Accessible s .write (eaByte5 s n o5) 1 → Stores (.strbImm d n o5) s (eaByte5 s n o5) 1 (s.lo d)) ∧
      (Accessible s .write (eaReg s n m) 1 → Stores (.strbReg d n m) s (eaReg s n m) 1 (s.lo d)))

/-- Word loads (R222, R231, R235, R237): Rd takes the four bytes at the effective address in the byte order, and nothing
else changes; the PC-relative base is the PC value rounded down to a word, so its access is never misaligned. -/
def Obligations.WordLoads : Prop :=
  ∀ (s : State) (d n m : LoReg) (o5 : BitVec 5) (o8 : BitVec 8) (aPc : Word),
    aPc = BitVec.ofNat 32 ((s.pc + 4#32).toNat / 4 * 4 + 4 * o8.toNat) →
    decodeHalf (0b01101#5 ++ o5 ++ n ++ d) = .ldrImm d n o5 ∧ decodeHalf (0b0101100#7 ++ m ++ n ++ d) = .ldrReg d n m ∧
    decodeHalf (0b01001#5 ++ d ++ o8) = .ldrPc d o8 ∧ decodeHalf (0b10011#5 ++ d ++ o8) = .ldrSp d o8 ∧
    (NotTop s →
      (∀ a, a = s.lo n + BitVec.ofNat 32 (4 * o5.toNat) → Accessible s .read a 4 →
        WritesOnly (.ldrImm d n o5) s (.lo d) (BitVec.ofNat 32 (bytesValue s.params.endian s.mem a 4))) ∧
      (∀ a, a = s.lo n + s.lo m → Accessible s .read a 4 →
        WritesOnly (.ldrReg d n m) s (.lo d) (BitVec.ofNat 32 (bytesValue s.params.endian s.mem a 4))) ∧
      ((∀ b ∈ byteAddrs aPc 4, admitsByte s.params.mem .read b = true) →
        WritesOnly (.ldrPc d o8) s (.lo d) (BitVec.ofNat 32 (bytesValue s.params.endian s.mem aPc 4))) ∧
      (∀ a, a = s.sp + BitVec.ofNat 32 (4 * o8.toNat) → Accessible s .read a 4 →
        WritesOnly (.ldrSp d o8) s (.lo d) (BitVec.ofNat 32 (bytesValue s.params.endian s.mem a 4))))

/-- Unsigned narrow loads (R224, R226, R232, R233): the byte or halfword, extended with zeros. -/
def Obligations.UnsignedNarrowLoads : Prop :=
  ∀ (s : State) (d n m : LoReg) (o5 : BitVec 5),
    decodeHalf (0b01111#5 ++ o5 ++ n ++ d) = .ldrbImm d n o5 ∧ decodeHalf (0b10001#5 ++ o5 ++ n ++ d) = .ldrhImm d n o5 ∧
    decodeHalf (0b0101101#7 ++ m ++ n ++ d) = .ldrhReg d n m ∧ decodeHalf (0b0101110#7 ++ m ++ n ++ d) = .ldrbReg d n m ∧
    (NotTop s →
      (∀ a, a = s.lo n + BitVec.ofNat 32 o5.toNat → Accessible s .read a 1 →
        WritesOnly (.ldrbImm d n o5) s (.lo d) (BitVec.ofNat 32 (bytesValue s.params.endian s.mem a 1))) ∧
      (∀ a, a = s.lo n + BitVec.ofNat 32 (2 * o5.toNat) → Accessible s .read a 2 →
        WritesOnly (.ldrhImm d n o5) s (.lo d) (BitVec.ofNat 32 (bytesValue s.params.endian s.mem a 2))) ∧
      (∀ a, a = s.lo n + s.lo m →
        (Accessible s .read a 2 →
          WritesOnly (.ldrhReg d n m) s (.lo d) (BitVec.ofNat 32 (bytesValue s.params.endian s.mem a 2))) ∧
        (Accessible s .read a 1 →
          WritesOnly (.ldrbReg d n m) s (.lo d) (BitVec.ofNat 32 (bytesValue s.params.endian s.mem a 1)))))

/-- Signed narrow loads (R230, R234): the byte or halfword, extended with its sign. -/
def Obligations.SignedNarrowLoads : Prop :=
  ∀ (s : State) (d n m : LoReg) (a : Word), a = s.lo n + s.lo m →
    decodeHalf (0b0101011#7 ++ m ++ n ++ d) = .ldrsbReg d n m ∧ decodeHalf (0b0101111#7 ++ m ++ n ++ d) = .ldrshReg d n m ∧
    (NotTop s →
      (Accessible s .read a 1 → WritesOnly (.ldrsbReg d n m) s (.lo d)
        (BitVec.ofInt 32 (BitVec.ofNat 8 (bytesValue s.params.endian s.mem a 1)).toInt)) ∧
      (Accessible s .read a 2 → WritesOnly (.ldrshReg d n m) s (.lo d)
        (BitVec.ofInt 32 (BitVec.ofNat 16 (bytesValue s.params.endian s.mem a 2)).toInt)))

/-- A misaligned halfword or word access (20_memory.md R53) takes the Data abort for its address under
`ALIGN_POLICY = fault` and is refused under `ALIGN_POLICY = refuse`, for every single transfer. -/
def Obligations.MisalignedAccessAbortsOrRefuses : Prop :=
  ∀ (s : State) (i : Instr) (k : AccessKind) (a : Word) (n : Nat), accessOf i s = some (k, a, n) → a.toNat % n ≠ 0 →
    (s.params.alignPolicy = .fault → exec i s = .next (takeException (.dataAbort a) s)) ∧
    (s.params.alignPolicy = .refuse → exec i s = .refused (.misaligned a))

/-- An aligned access to a byte that is not admitted takes the Data abort for its address (20_memory.md R55, R56;
60_exceptions.md R279), with no register and no byte of memory written but r14_abt. -/
def Obligations.UnadmittedAccessAborts : Prop :=
  ∀ (s : State) (i : Instr) (k : AccessKind) (a : Word) (n : Nat), accessOf i s = some (k, a, n) → a.toNat % n = 0 →
    (∃ b ∈ byteAddrs a n, admitsByte s.params.mem k b = false) →
    ∃ t, exec i s = .next t ∧ t.pc = 0x00000010#32 ∧ t.cpsr.m = .abort ∧ t.cpsr.t = false ∧ t.cpsr.i = true ∧
      t.regs.get (.lr .abt) = s.pc + 8#32 ∧ t.spsr.abt = s.cpsr ∧ RegsKept [.lr .abt] s t ∧ FlagsKept s t ∧
      t.cpsr.f = s.cpsr.f ∧ t.cpsr.reserved = s.cpsr.reserved ∧ (∀ c, c ≠ .abt → t.spsr.get c = s.spsr.get c) ∧
      MemKept s t ∧ t.params = s.params ∧ t.events = s.events ∧ t.output = s.output ∧ t.ended = some (.leftThumb (.exception (.dataAbort a)))

/-- The byte order (20_memory.md R52): a word or halfword read is the sum R52 gives, at every address; in canonical memory
a word written reads back as itself, and narrower reads see its bytes. -/
def Obligations.ByteOrderOfAccesses : Prop :=
  ∀ (e : Endian) (m : Memory) (a v : Word),
    (readWord e m a).toNat = bytesValue e m a 4 ∧ (readHalf e m a).toNat = bytesValue e m a 2 ∧
    (m.wf = true →
      readWord e (writeWord e m a v) a = v ∧
      readHalf e (writeWord e m a v) (a + 2#32) = (match e with
        | .little => v.extractLsb' 16 16
        | .big => v.extractLsb' 0 16) ∧
      readByte (writeWord e m a v) a.toNat = (match e with
        | .little => v.extractLsb' 0 8
        | .big => v.extractLsb' 24 8) ∧
      (writeWord e m a v).wf = true)

/-! Multiple transfers (44_load_store_multiple.md). -/

/-- STMIA (R251): the listed registers, the lowest at the base, in consecutive words; the base moves past them; nothing
else changes. An empty list and the base in the list are refused. -/
def Obligations.StoreMultiple : Prop :=
  ∀ (s : State) (n : LoReg) (list : BitVec 8), decodeHalf (0b11000#5 ++ n ++ list) = .stmia n list ∧
    (list = 0#8 → exec (.stmia n list) s = .refused .emptyList) ∧
    (list.getLsbD n.toNat = true → exec (.stmia n list) s = .refused .baseInList) ∧
    (NotTop s → s.mem.wf = true → list ≠ 0#8 → list.getLsbD n.toNat = false →
      (∀ j < rank list 8, Accessible s .write (wordAt (s.lo n) j) 4) →
      ∃ t, exec (.stmia n list) s = .next t ∧
        (∀ i : LoReg, list.getLsbD i.toNat = true →
          HoldsBytes s.params.endian t.mem (wordAt (s.lo n) (rank list i.toNat)) 4 (s.lo i)) ∧
        MemKeptOutsideWords (s.lo n) (rank list 8) s t ∧ t.lo n = wordAt (s.lo n) (rank list 8) ∧
        Frame [.lo n] s t ∧ FlagsKept s t ∧ t.pc = s.pc + 2#32)

/-- LDMIA (R252): the listed registers from consecutive words, the lowest from the base; the base moves past them;
nothing else changes. An empty list and the base in the list are refused. -/
def Obligations.LoadMultiple : Prop :=
  ∀ (s : State) (n : LoReg) (list : BitVec 8), decodeHalf (0b11001#5 ++ n ++ list) = .ldmia n list ∧
    (list = 0#8 → exec (.ldmia n list) s = .refused .emptyList) ∧
    (list.getLsbD n.toNat = true → exec (.ldmia n list) s = .refused .baseInList) ∧
    (NotTop s → list ≠ 0#8 → list.getLsbD n.toNat = false →
      (∀ j < rank list 8, Accessible s .read (wordAt (s.lo n) j) 4) →
      ∃ t, exec (.ldmia n list) s = .next t ∧
        (∀ i : LoReg, list.getLsbD i.toNat = true →
          t.lo i = BitVec.ofNat 32 (bytesValue s.params.endian s.mem (wordAt (s.lo n) (rank list i.toNat)) 4)) ∧
        t.lo n = wordAt (s.lo n) (rank list 8) ∧ FlagsKept s t ∧ MovesOn (.lo n :: namedRegs list) s t)

/-- PUSH (R253), full descending: SP ends at the lowest word, which holds the lowest-numbered register; LR, if pushed,
is just below the old SP; nothing else changes. An empty list is refused. -/
def Obligations.PushRegisters : Prop :=
  ∀ (s : State) (r : Bool) (list : BitVec 8) (k : Nat) (start : Word),
    k = rank list 8 + r.toNat → start = s.sp - BitVec.ofNat 32 (4 * k) →
    decodeHalf (0b1011010#7 ++ BitVec.ofBool r ++ list) = .push r list ∧ pushStart s r list = start ∧
    (k = 0 → exec (.push r list) s = .refused .emptyList) ∧
    (NotTop s → s.mem.wf = true → k ≠ 0 → (∀ j < k, Accessible s .write (wordAt start j) 4) →
      ∃ t, exec (.push r list) s = .next t ∧
        (∀ i : LoReg, list.getLsbD i.toNat = true →
          HoldsBytes s.params.endian t.mem (wordAt start (rank list i.toNat)) 4 (s.lo i)) ∧
        (r = true → HoldsBytes s.params.endian t.mem (s.sp - 4#32) 4 s.lr) ∧
        MemKeptOutsideWords start k s t ∧ t.sp = start ∧ Frame [spOf s] s t ∧ FlagsKept s t ∧ t.pc = s.pc + 2#32)

/-- POP without pc (R254): the listed registers from consecutive words, the lowest from SP; SP moves past them. -/
def Obligations.PopRegisters : Prop :=
  ∀ (s : State) (list : BitVec 8), decodeHalf (0b10111100#8 ++ list) = .pop false list ∧
    (list = 0#8 → exec (.pop false list) s = .refused .emptyList) ∧
    (NotTop s → list ≠ 0#8 → (∀ j < rank list 8, Accessible s .read (wordAt s.sp j) 4) →
      ∃ t, exec (.pop false list) s = .next t ∧
        (∀ i : LoReg, list.getLsbD i.toNat = true →
          t.lo i = BitVec.ofNat 32 (bytesValue s.params.endian s.mem (wordAt s.sp (rank list i.toNat)) 4)) ∧
        t.sp = wordAt s.sp (rank list 8) ∧ FlagsKept s t ∧ MovesOn (spOf s :: namedRegs list) s t)

/-- POP with pc (R254): the registers and SP as without it, and the pc from the highest word: under v4T with bit 0
ignored and T unchanged; under v5T bit 0 selects the state, and an ARM target that is no word is refused. -/
def Obligations.PopProgramCounter : Prop :=
  ∀ (s : State) (list : BitVec 8) (v : Word), decodeHalf (0b10111101#8 ++ list) = .pop true list ∧
    ((∀ j ≤ rank list 8, Accessible s .read (wordAt s.sp j) 4) →
      v = BitVec.ofNat 32 (bytesValue s.params.endian s.mem (wordAt s.sp (rank list 8)) 4) →
      (s.params.arch = .v5T → v.getLsbD 0 = false → v.getLsbD 1 = true →
        exec (.pop true list) s = .refused (.popTargetUnaligned v)) ∧
      ((s.params.arch = .v4T ∨ v.getLsbD 0 = true ∨ v.getLsbD 1 = false) →
        ∃ t, exec (.pop true list) s = .next t ∧
          (∀ i : LoReg, list.getLsbD i.toNat = true →
            t.lo i = BitVec.ofNat 32 (bytesValue s.params.endian s.mem (wordAt s.sp (rank list i.toNat)) 4)) ∧
          t.sp = wordAt s.sp (rank list 8 + 1) ∧ RegsKept (spOf s :: namedRegs list) s t ∧ SystemKept s t ∧
          FlagsKept s t ∧ MemKept s t ∧
          (s.params.arch = .v4T → t.pc = v &&& 0xFFFFFFFE#32 ∧ StateKept s t) ∧
          (s.params.arch = .v5T → v.getLsbD 0 = true →
            t.pc = v &&& 0xFFFFFFFE#32 ∧ t.cpsr.t = true ∧ t.ended = s.ended) ∧
          (s.params.arch = .v5T → v.getLsbD 0 = false →
            t.pc = v ∧ t.cpsr.t = false ∧ t.ended = some (.leftThumb .pop))))

/-- A multiple transfer one of whose words fails its checks does nothing but take the Data abort for the first failing
address (R250(e)); a misaligned one is refused instead under `ALIGN_POLICY = refuse` (20_memory.md R53; log entry 15). -/
def Obligations.MultipleTransferAbortsWhole : Prop :=
  ∀ (s : State) (n : LoReg) (r : Bool) (list : BitVec 8) (j : Nat) (i : Instr) (k : AccessKind) (a : Word) (size : Nat),
    ((i, k, a, size) = (.stmia n list, .write, s.lo n, rank list 8) ∧ list.getLsbD n.toNat = false ∨
     (i, k, a, size) = (.ldmia n list, .read, s.lo n, rank list 8) ∧ list.getLsbD n.toNat = false ∨
     (i, k, a, size) =
       (.push r list, .write, s.sp - BitVec.ofNat 32 (4 * (rank list 8 + r.toNat)), rank list 8 + r.toNat) ∨
     (i, k, a, size) = (.pop r list, .read, s.sp, rank list 8 + r.toNat)) →
    j < size → (∀ q < j, Accessible s k (wordAt a q) 4) → ¬ Accessible s k (wordAt a j) 4 →
    (s.params.alignPolicy = .fault ∨ (wordAt a j).toNat % 4 = 0 →
      exec i s = .next (takeException (.dataAbort (wordAt a j)) s)) ∧
    (s.params.alignPolicy = .refuse → (wordAt a j).toNat % 4 ≠ 0 → exec i s = .refused (.misaligned (wordAt a j)))

/-- Pushing registers and popping the same list, each in its own step's execution, gives the registers and SP back
(R253, R254). -/
def Obligations.PopUndoesPush : Prop :=
  ∀ (s : State) (list : BitVec 8) (t : State), Running s → s.mem.wf = true → list ≠ 0#8 →
    (∀ j < rank list 8, Accessible s .read (wordAt (s.sp - BitVec.ofNat 32 (4 * rank list 8)) j) 4) →
    exec (.push false list) s = .next t → t.ended = none →
    ∀ (u : State), u.mem = t.mem → u.params = t.params → u.cpsr = t.cpsr → u.regs.get (spOf t) = t.sp → NotTop u →
      ∃ w, exec (.pop false list) u = .next w ∧ w.sp = s.sp ∧
        ∀ i : LoReg, list.getLsbD i.toNat = true → w.lo i = s.lo i

/-! Register numbers. -/

/-- Which physical register a number names (10_state.md R21, R24; 30_encoding.md R88): 0 to 7 the one copy in every mode; 8
to 12 the FIQ copies in FIQ mode and the common ones in every other; 13 and 14 SP and LR of the mode's bank; 15 reads as
pc + 4. User and System share a bank and have no SPSR; the five exception modes have a bank and an SPSR each. -/
def Obligations.RegisterNumbersNameBankedRegisters : Prop :=
  ∀ (s : State) (m : Mode) (n : LoReg) (k : Fin 5) (i : Reg),
    physOf m (0#1 ++ n) = some (.lo n) ∧
    (i.toNat = 8 + k.val → physOf .fiq i = some (.midFiq k) ∧ (m ≠ .fiq → physOf m i = some (.mid k))) ∧
    physOf m 13#4 = some (.sp (bankOf m)) ∧ physOf m 14#4 = some (.lr (bankOf m)) ∧ physOf m 15#4 = none ∧
    s.reg (0#1 ++ n) = s.lo n ∧ s.lo n = s.regs.get (.lo n) ∧
    (i.toNat = 8 + k.val → s.reg i = s.regs.get (if s.cpsr.m = .fiq then .midFiq k else .mid k)) ∧
    s.reg 13#4 = s.sp ∧ s.sp = s.regs.get (.sp (bankOf s.cpsr.m)) ∧
    s.reg 14#4 = s.lr ∧ s.lr = s.regs.get (.lr (bankOf s.cpsr.m)) ∧ s.reg 15#4 = s.pc + 4#32 ∧
    (bankOf .user, bankOf .system) = (.usr, .usr) ∧
    (bankOf .fiq, bankOf .irq, bankOf .supervisor, bankOf .abort, bankOf .undefined) = (.fiq, .irq, .svc, .abt, .und) ∧
    s.spsr.get .usr = none ∧ s.spsr.get .fiq = some s.spsr.fiq ∧ s.spsr.get .irq = some s.spsr.irq ∧
    s.spsr.get .svc = some s.spsr.svc ∧ s.spsr.get .abt = some s.spsr.abt ∧ s.spsr.get .und = some s.spsr.und
end

