-- ==== Sys2Proof/Laws/State.lean ====
section
/-! SUPPORT. The small lemmas of State: one per field per update, and the same for the status register. -/

namespace Sys2Proof.Machine

@[simp] theorem State.setPhys_regs (s : State) (p : PhysReg) (v : Word) : (s.setPhys p v).regs = s.regs.set p v := rfl
@[simp] theorem State.setPhys_pc (s : State) (p : PhysReg) (v : Word) : (s.setPhys p v).pc = s.pc := rfl
@[simp] theorem State.setPhys_cpsr (s : State) (p : PhysReg) (v : Word) : (s.setPhys p v).cpsr = s.cpsr := rfl
@[simp] theorem State.setPhys_spsr (s : State) (p : PhysReg) (v : Word) : (s.setPhys p v).spsr = s.spsr := rfl
@[simp] theorem State.setPhys_mem (s : State) (p : PhysReg) (v : Word) : (s.setPhys p v).mem = s.mem := rfl
@[simp] theorem State.setPhys_params (s : State) (p : PhysReg) (v : Word) : (s.setPhys p v).params = s.params := rfl
@[simp] theorem State.setPhys_events (s : State) (p : PhysReg) (v : Word) : (s.setPhys p v).events = s.events := rfl
@[simp] theorem State.setPhys_stepNo (s : State) (p : PhysReg) (v : Word) : (s.setPhys p v).stepNo = s.stepNo := rfl
@[simp] theorem State.setPhys_ended (s : State) (p : PhysReg) (v : Word) : (s.setPhys p v).ended = s.ended := rfl
@[simp] theorem State.setPhys_output (s : State) (p : PhysReg) (v : Word) : (s.setPhys p v).output = s.output := rfl
@[simp] theorem State.setPhys_freeIdx (s : State) (p : PhysReg) (v : Word) : (s.setPhys p v).freeIdx = s.freeIdx := rfl

@[simp] theorem State.setPc_regs (s : State) (v : Word) : (s.setPc v).regs = s.regs := rfl
@[simp] theorem State.setPc_pc (s : State) (v : Word) : (s.setPc v).pc = v := rfl
@[simp] theorem State.setPc_cpsr (s : State) (v : Word) : (s.setPc v).cpsr = s.cpsr := rfl
@[simp] theorem State.setPc_spsr (s : State) (v : Word) : (s.setPc v).spsr = s.spsr := rfl
@[simp] theorem State.setPc_mem (s : State) (v : Word) : (s.setPc v).mem = s.mem := rfl
@[simp] theorem State.setPc_params (s : State) (v : Word) : (s.setPc v).params = s.params := rfl
@[simp] theorem State.setPc_events (s : State) (v : Word) : (s.setPc v).events = s.events := rfl
@[simp] theorem State.setPc_stepNo (s : State) (v : Word) : (s.setPc v).stepNo = s.stepNo := rfl
@[simp] theorem State.setPc_ended (s : State) (v : Word) : (s.setPc v).ended = s.ended := rfl
@[simp] theorem State.setPc_output (s : State) (v : Word) : (s.setPc v).output = s.output := rfl
@[simp] theorem State.setPc_freeIdx (s : State) (v : Word) : (s.setPc v).freeIdx = s.freeIdx := rfl

@[simp] theorem State.setCpsr_regs (s : State) (p : PSR) : (s.setCpsr p).regs = s.regs := rfl
@[simp] theorem State.setCpsr_pc (s : State) (p : PSR) : (s.setCpsr p).pc = s.pc := rfl
@[simp] theorem State.setCpsr_cpsr (s : State) (p : PSR) : (s.setCpsr p).cpsr = p := rfl
@[simp] theorem State.setCpsr_spsr (s : State) (p : PSR) : (s.setCpsr p).spsr = s.spsr := rfl
@[simp] theorem State.setCpsr_mem (s : State) (p : PSR) : (s.setCpsr p).mem = s.mem := rfl
@[simp] theorem State.setCpsr_params (s : State) (p : PSR) : (s.setCpsr p).params = s.params := rfl
@[simp] theorem State.setCpsr_events (s : State) (p : PSR) : (s.setCpsr p).events = s.events := rfl
@[simp] theorem State.setCpsr_stepNo (s : State) (p : PSR) : (s.setCpsr p).stepNo = s.stepNo := rfl
@[simp] theorem State.setCpsr_ended (s : State) (p : PSR) : (s.setCpsr p).ended = s.ended := rfl
@[simp] theorem State.setCpsr_output (s : State) (p : PSR) : (s.setCpsr p).output = s.output := rfl
@[simp] theorem State.setCpsr_freeIdx (s : State) (p : PSR) : (s.setCpsr p).freeIdx = s.freeIdx := rfl

@[simp] theorem State.setSpsr_regs (s : State) (b : Bank) (p : PSR) : (s.setSpsr b p).regs = s.regs := rfl
@[simp] theorem State.setSpsr_pc (s : State) (b : Bank) (p : PSR) : (s.setSpsr b p).pc = s.pc := rfl
@[simp] theorem State.setSpsr_cpsr (s : State) (b : Bank) (p : PSR) : (s.setSpsr b p).cpsr = s.cpsr := rfl
@[simp] theorem State.setSpsr_spsr (s : State) (b : Bank) (p : PSR) : (s.setSpsr b p).spsr = s.spsr.set b p := rfl
@[simp] theorem State.setSpsr_mem (s : State) (b : Bank) (p : PSR) : (s.setSpsr b p).mem = s.mem := rfl
@[simp] theorem State.setSpsr_params (s : State) (b : Bank) (p : PSR) : (s.setSpsr b p).params = s.params := rfl
@[simp] theorem State.setSpsr_events (s : State) (b : Bank) (p : PSR) : (s.setSpsr b p).events = s.events := rfl
@[simp] theorem State.setSpsr_stepNo (s : State) (b : Bank) (p : PSR) : (s.setSpsr b p).stepNo = s.stepNo := rfl
@[simp] theorem State.setSpsr_ended (s : State) (b : Bank) (p : PSR) : (s.setSpsr b p).ended = s.ended := rfl
@[simp] theorem State.setSpsr_output (s : State) (b : Bank) (p : PSR) : (s.setSpsr b p).output = s.output := rfl
@[simp] theorem State.setSpsr_freeIdx (s : State) (b : Bank) (p : PSR) : (s.setSpsr b p).freeIdx = s.freeIdx := rfl

@[simp] theorem State.setMem_regs (s : State) (m : Memory) : (s.setMem m).regs = s.regs := rfl
@[simp] theorem State.setMem_pc (s : State) (m : Memory) : (s.setMem m).pc = s.pc := rfl
@[simp] theorem State.setMem_cpsr (s : State) (m : Memory) : (s.setMem m).cpsr = s.cpsr := rfl
@[simp] theorem State.setMem_spsr (s : State) (m : Memory) : (s.setMem m).spsr = s.spsr := rfl
@[simp] theorem State.setMem_mem (s : State) (m : Memory) : (s.setMem m).mem = m := rfl
@[simp] theorem State.setMem_params (s : State) (m : Memory) : (s.setMem m).params = s.params := rfl
@[simp] theorem State.setMem_events (s : State) (m : Memory) : (s.setMem m).events = s.events := rfl
@[simp] theorem State.setMem_stepNo (s : State) (m : Memory) : (s.setMem m).stepNo = s.stepNo := rfl
@[simp] theorem State.setMem_ended (s : State) (m : Memory) : (s.setMem m).ended = s.ended := rfl
@[simp] theorem State.setMem_output (s : State) (m : Memory) : (s.setMem m).output = s.output := rfl
@[simp] theorem State.setMem_freeIdx (s : State) (m : Memory) : (s.setMem m).freeIdx = s.freeIdx := rfl

@[simp] theorem State.finish_regs (s : State) (e : RunEnd) : (s.finish e).regs = s.regs := rfl
@[simp] theorem State.finish_pc (s : State) (e : RunEnd) : (s.finish e).pc = s.pc := rfl
@[simp] theorem State.finish_cpsr (s : State) (e : RunEnd) : (s.finish e).cpsr = s.cpsr := rfl
@[simp] theorem State.finish_spsr (s : State) (e : RunEnd) : (s.finish e).spsr = s.spsr := rfl
@[simp] theorem State.finish_mem (s : State) (e : RunEnd) : (s.finish e).mem = s.mem := rfl
@[simp] theorem State.finish_params (s : State) (e : RunEnd) : (s.finish e).params = s.params := rfl
@[simp] theorem State.finish_events (s : State) (e : RunEnd) : (s.finish e).events = s.events := rfl
@[simp] theorem State.finish_stepNo (s : State) (e : RunEnd) : (s.finish e).stepNo = s.stepNo := rfl
@[simp] theorem State.finish_ended (s : State) (e : RunEnd) : (s.finish e).ended = some e := rfl
@[simp] theorem State.finish_output (s : State) (e : RunEnd) : (s.finish e).output = s.output := rfl
@[simp] theorem State.finish_freeIdx (s : State) (e : RunEnd) : (s.finish e).freeIdx = s.freeIdx := rfl

@[simp] theorem State.putOutput_regs (s : State) (b : Byte) : (s.putOutput b).regs = s.regs := rfl
@[simp] theorem State.putOutput_pc (s : State) (b : Byte) : (s.putOutput b).pc = s.pc := rfl
@[simp] theorem State.putOutput_cpsr (s : State) (b : Byte) : (s.putOutput b).cpsr = s.cpsr := rfl
@[simp] theorem State.putOutput_spsr (s : State) (b : Byte) : (s.putOutput b).spsr = s.spsr := rfl
@[simp] theorem State.putOutput_mem (s : State) (b : Byte) : (s.putOutput b).mem = s.mem := rfl
@[simp] theorem State.putOutput_params (s : State) (b : Byte) : (s.putOutput b).params = s.params := rfl
@[simp] theorem State.putOutput_events (s : State) (b : Byte) : (s.putOutput b).events = s.events := rfl
@[simp] theorem State.putOutput_stepNo (s : State) (b : Byte) : (s.putOutput b).stepNo = s.stepNo := rfl
@[simp] theorem State.putOutput_ended (s : State) (b : Byte) : (s.putOutput b).ended = s.ended := rfl
@[simp] theorem State.putOutput_output (s : State) (b : Byte) : (s.putOutput b).output = s.output ++ [b] := rfl
@[simp] theorem State.putOutput_freeIdx (s : State) (b : Byte) : (s.putOutput b).freeIdx = s.freeIdx := rfl

@[simp] theorem State.drawFree_regs (s : State) (n : Nat) : (s.drawFree n).regs = s.regs := rfl
@[simp] theorem State.drawFree_pc (s : State) (n : Nat) : (s.drawFree n).pc = s.pc := rfl
@[simp] theorem State.drawFree_cpsr (s : State) (n : Nat) : (s.drawFree n).cpsr = s.cpsr := rfl
@[simp] theorem State.drawFree_spsr (s : State) (n : Nat) : (s.drawFree n).spsr = s.spsr := rfl
@[simp] theorem State.drawFree_mem (s : State) (n : Nat) : (s.drawFree n).mem = s.mem := rfl
@[simp] theorem State.drawFree_params (s : State) (n : Nat) : (s.drawFree n).params = s.params := rfl
@[simp] theorem State.drawFree_events (s : State) (n : Nat) : (s.drawFree n).events = s.events := rfl
@[simp] theorem State.drawFree_stepNo (s : State) (n : Nat) : (s.drawFree n).stepNo = s.stepNo := rfl
@[simp] theorem State.drawFree_ended (s : State) (n : Nat) : (s.drawFree n).ended = s.ended := rfl
@[simp] theorem State.drawFree_output (s : State) (n : Nat) : (s.drawFree n).output = s.output := rfl
@[simp] theorem State.drawFree_freeIdx (s : State) (n : Nat) : (s.drawFree n).freeIdx = s.freeIdx + n := rfl

@[simp] theorem State.setLo_regs (s : State) (d : LoReg) (v : Word) : (s.setLo d v).regs = s.regs.set (.lo d) v := rfl
@[simp] theorem State.setLo_pc (s : State) (d : LoReg) (v : Word) : (s.setLo d v).pc = s.pc := rfl
@[simp] theorem State.setLo_cpsr (s : State) (d : LoReg) (v : Word) : (s.setLo d v).cpsr = s.cpsr := rfl
@[simp] theorem State.setLo_spsr (s : State) (d : LoReg) (v : Word) : (s.setLo d v).spsr = s.spsr := rfl
@[simp] theorem State.setLo_mem (s : State) (d : LoReg) (v : Word) : (s.setLo d v).mem = s.mem := rfl
@[simp] theorem State.setLo_params (s : State) (d : LoReg) (v : Word) : (s.setLo d v).params = s.params := rfl
@[simp] theorem State.setLo_events (s : State) (d : LoReg) (v : Word) : (s.setLo d v).events = s.events := rfl
@[simp] theorem State.setLo_stepNo (s : State) (d : LoReg) (v : Word) : (s.setLo d v).stepNo = s.stepNo := rfl
@[simp] theorem State.setLo_ended (s : State) (d : LoReg) (v : Word) : (s.setLo d v).ended = s.ended := rfl
@[simp] theorem State.setLo_output (s : State) (d : LoReg) (v : Word) : (s.setLo d v).output = s.output := rfl
@[simp] theorem State.setLo_freeIdx (s : State) (d : LoReg) (v : Word) : (s.setLo d v).freeIdx = s.freeIdx := rfl

@[simp] theorem State.setSp_regs (s : State) (v : Word) : (s.setSp v).regs = s.regs.set (.sp (bankOf s.cpsr.m)) v := rfl
@[simp] theorem State.setSp_pc (s : State) (v : Word) : (s.setSp v).pc = s.pc := rfl
@[simp] theorem State.setSp_cpsr (s : State) (v : Word) : (s.setSp v).cpsr = s.cpsr := rfl
@[simp] theorem State.setSp_spsr (s : State) (v : Word) : (s.setSp v).spsr = s.spsr := rfl
@[simp] theorem State.setSp_mem (s : State) (v : Word) : (s.setSp v).mem = s.mem := rfl
@[simp] theorem State.setSp_params (s : State) (v : Word) : (s.setSp v).params = s.params := rfl
@[simp] theorem State.setSp_events (s : State) (v : Word) : (s.setSp v).events = s.events := rfl
@[simp] theorem State.setSp_stepNo (s : State) (v : Word) : (s.setSp v).stepNo = s.stepNo := rfl
@[simp] theorem State.setSp_ended (s : State) (v : Word) : (s.setSp v).ended = s.ended := rfl
@[simp] theorem State.setSp_output (s : State) (v : Word) : (s.setSp v).output = s.output := rfl
@[simp] theorem State.setSp_freeIdx (s : State) (v : Word) : (s.setSp v).freeIdx = s.freeIdx := rfl

@[simp] theorem State.setLr_regs (s : State) (v : Word) : (s.setLr v).regs = s.regs.set (.lr (bankOf s.cpsr.m)) v := rfl
@[simp] theorem State.setLr_pc (s : State) (v : Word) : (s.setLr v).pc = s.pc := rfl
@[simp] theorem State.setLr_cpsr (s : State) (v : Word) : (s.setLr v).cpsr = s.cpsr := rfl
@[simp] theorem State.setLr_spsr (s : State) (v : Word) : (s.setLr v).spsr = s.spsr := rfl
@[simp] theorem State.setLr_mem (s : State) (v : Word) : (s.setLr v).mem = s.mem := rfl
@[simp] theorem State.setLr_params (s : State) (v : Word) : (s.setLr v).params = s.params := rfl
@[simp] theorem State.setLr_events (s : State) (v : Word) : (s.setLr v).events = s.events := rfl
@[simp] theorem State.setLr_stepNo (s : State) (v : Word) : (s.setLr v).stepNo = s.stepNo := rfl
@[simp] theorem State.setLr_ended (s : State) (v : Word) : (s.setLr v).ended = s.ended := rfl
@[simp] theorem State.setLr_output (s : State) (v : Word) : (s.setLr v).output = s.output := rfl
@[simp] theorem State.setLr_freeIdx (s : State) (v : Word) : (s.setLr v).freeIdx = s.freeIdx := rfl

@[simp] theorem PSR.withNZ_n (p : PSR) (r : Word) : (p.withNZ r).n = r.msb := rfl
@[simp] theorem PSR.withNZ_z (p : PSR) (r : Word) : (p.withNZ r).z = decide (r = 0#32) := rfl
@[simp] theorem PSR.withNZ_c (p : PSR) (r : Word) : (p.withNZ r).c = p.c := rfl
@[simp] theorem PSR.withNZ_v (p : PSR) (r : Word) : (p.withNZ r).v = p.v := rfl
@[simp] theorem PSR.withNZ_reserved (p : PSR) (r : Word) : (p.withNZ r).reserved = p.reserved := rfl
@[simp] theorem PSR.withNZ_i (p : PSR) (r : Word) : (p.withNZ r).i = p.i := rfl
@[simp] theorem PSR.withNZ_f (p : PSR) (r : Word) : (p.withNZ r).f = p.f := rfl
@[simp] theorem PSR.withNZ_t (p : PSR) (r : Word) : (p.withNZ r).t = p.t := rfl
@[simp] theorem PSR.withNZ_m (p : PSR) (r : Word) : (p.withNZ r).m = p.m := rfl

@[simp] theorem PSR.withC_n (p : PSR) (b : Bool) : (p.withC b).n = p.n := rfl
@[simp] theorem PSR.withC_z (p : PSR) (b : Bool) : (p.withC b).z = p.z := rfl
@[simp] theorem PSR.withC_c (p : PSR) (b : Bool) : (p.withC b).c = b := rfl
@[simp] theorem PSR.withC_v (p : PSR) (b : Bool) : (p.withC b).v = p.v := rfl
@[simp] theorem PSR.withC_reserved (p : PSR) (b : Bool) : (p.withC b).reserved = p.reserved := rfl
@[simp] theorem PSR.withC_i (p : PSR) (b : Bool) : (p.withC b).i = p.i := rfl
@[simp] theorem PSR.withC_f (p : PSR) (b : Bool) : (p.withC b).f = p.f := rfl
@[simp] theorem PSR.withC_t (p : PSR) (b : Bool) : (p.withC b).t = p.t := rfl
@[simp] theorem PSR.withC_m (p : PSR) (b : Bool) : (p.withC b).m = p.m := rfl

@[simp] theorem PSR.withSum_n (p : PSR) (r : SumResult) : (p.withSum r).n = r.result.msb := rfl
@[simp] theorem PSR.withSum_z (p : PSR) (r : SumResult) : (p.withSum r).z = decide (r.result = 0#32) := rfl
@[simp] theorem PSR.withSum_c (p : PSR) (r : SumResult) : (p.withSum r).c = r.carry := rfl
@[simp] theorem PSR.withSum_v (p : PSR) (r : SumResult) : (p.withSum r).v = r.overflow := rfl
@[simp] theorem PSR.withSum_reserved (p : PSR) (r : SumResult) : (p.withSum r).reserved = p.reserved := rfl
@[simp] theorem PSR.withSum_i (p : PSR) (r : SumResult) : (p.withSum r).i = p.i := rfl
@[simp] theorem PSR.withSum_f (p : PSR) (r : SumResult) : (p.withSum r).f = p.f := rfl
@[simp] theorem PSR.withSum_t (p : PSR) (r : SumResult) : (p.withSum r).t = p.t := rfl
@[simp] theorem PSR.withSum_m (p : PSR) (r : SumResult) : (p.withSum r).m = p.m := rfl

@[simp] theorem PSR.withShift_n (p : PSR) (r : ShiftResult) : (p.withShift r).n = r.result.msb := by
  cases r with | mk v c => cases c <;> rfl
@[simp] theorem PSR.withShift_z (p : PSR) (r : ShiftResult) : (p.withShift r).z = decide (r.result = 0#32) := by
  cases r with | mk v c => cases c <;> rfl
@[simp] theorem PSR.withShift_c (p : PSR) (r : ShiftResult) : (p.withShift r).c = r.carry.getD p.c := by
  cases r with | mk v c => cases c <;> rfl
@[simp] theorem PSR.withShift_v (p : PSR) (r : ShiftResult) : (p.withShift r).v = p.v := by
  cases r with | mk v c => cases c <;> rfl
@[simp] theorem PSR.withShift_reserved (p : PSR) (r : ShiftResult) : (p.withShift r).reserved = p.reserved := by
  cases r with | mk v c => cases c <;> rfl
@[simp] theorem PSR.withShift_i (p : PSR) (r : ShiftResult) : (p.withShift r).i = p.i := by
  cases r with | mk v c => cases c <;> rfl
@[simp] theorem PSR.withShift_f (p : PSR) (r : ShiftResult) : (p.withShift r).f = p.f := by
  cases r with | mk v c => cases c <;> rfl
@[simp] theorem PSR.withShift_t (p : PSR) (r : ShiftResult) : (p.withShift r).t = p.t := by
  cases r with | mk v c => cases c <;> rfl
@[simp] theorem PSR.withShift_m (p : PSR) (r : ShiftResult) : (p.withShift r).m = p.m := by
  cases r with | mk v c => cases c <;> rfl

/-! The step counter of `countStep` is the only thing it changes. -/

theorem countStep_next {r : Result} {t : State} (h : countStep r = .next t) :
    ∃ s, r = .next s ∧ t = { s with stepNo := s.stepNo + 1 } := by
  cases r with
  | next s => exact ⟨s, rfl, by simpa [countStep] using h.symm⟩
  | fault f => simp [countStep] at h
  | refused f => simp [countStep] at h

end Sys2Proof.Machine
end

