-- ==== Sys2Proof/Laws/Memory.lean ====
section
/-! SUPPORT. Memory: a read after a write, every memory operation keeps the canonical form, and in that form equal
contents are equal lists. -/

namespace Sys2Proof.Machine

theorem Memory.wfFrom_cons {lo a : Nat} {b : Byte} {m : Memory} :
    Memory.wfFrom lo ((a, b) :: m) = true ↔ lo ≤ a ∧ a < 2 ^ 32 ∧ b ≠ unlistedByte ∧ Memory.wfFrom (a + 1) m = true := by
  simp [Memory.wfFrom, and_assoc]

theorem Memory.wfFrom_mono {lo hi : Nat} {m : Memory} (hle : lo ≤ hi) (h : Memory.wfFrom hi m = true) :
    Memory.wfFrom lo m = true := by
  cases m with
  | nil => rfl
  | cons c m =>
    obtain ⟨a, b⟩ := c
    rw [Memory.wfFrom_cons] at h ⊢
    exact ⟨by omega, h.2⟩

/-- Below its first address a canonical memory lists nothing. -/
theorem readByte_below {lo a : Nat} {m : Memory} (h : Memory.wfFrom lo m = true) (ha : a < lo) :
    readByte m a = unlistedByte := by
  induction m generalizing lo with
  | nil => rfl
  | cons c m ih =>
    obtain ⟨k, b⟩ := c
    rw [Memory.wfFrom_cons] at h
    rw [readByte, if_neg (by omega), ih h.2.2.2 (by omega)]

theorem readByte_consCell (a k : Nat) (b : Byte) (m : Memory) (h : b = unlistedByte → readByte m a = unlistedByte) :
    readByte (consCell a b m) k = if k = a then b else readByte m k := by
  unfold consCell
  split
  · next hb =>
    split
    · next hk => rw [hk, h hb, hb]
    · rfl
  · rfl

theorem consCell_wf {lo a : Nat} {b : Byte} {m : Memory} (hlo : lo ≤ a) (ha : a < 2 ^ 32)
    (h : Memory.wfFrom (a + 1) m = true) : Memory.wfFrom lo (consCell a b m) = true := by
  unfold consCell
  split
  · exact Memory.wfFrom_mono (by omega) h
  · next hb => exact Memory.wfFrom_cons.mpr ⟨hlo, ha, hb, h⟩

/-- A write keeps the canonical form. -/
theorem writeByte_wfFrom {lo a : Nat} {b : Byte} {m : Memory} (h : Memory.wfFrom lo m = true) (hlo : lo ≤ a)
    (ha : a < 2 ^ 32) : Memory.wfFrom lo (writeByte m a b) = true := by
  induction m generalizing lo with
  | nil => exact consCell_wf hlo ha rfl
  | cons c m ih =>
    obtain ⟨k, c⟩ := c
    have hc := Memory.wfFrom_cons.mp h
    unfold writeByte
    split
    · exact consCell_wf hlo ha (Memory.wfFrom_cons.mpr ⟨by omega, hc.2⟩)
    · split
      · next hk => subst hk; exact consCell_wf hlo ha hc.2.2.2
      · exact Memory.wfFrom_cons.mpr ⟨hc.1, hc.2.1, hc.2.2.1, ih hc.2.2.2 (by omega)⟩

/-- Reading after a write: the address written holds the byte, every other address what it held. -/
theorem readByte_writeByte_from {lo a : Nat} {m : Memory} (h : Memory.wfFrom lo m = true) (b : Byte) (k : Nat) :
    readByte (writeByte m a b) k = if k = a then b else readByte m k := by
  induction m generalizing lo with
  | nil => exact readByte_consCell a k b [] (fun _ => rfl)
  | cons c m ih =>
    obtain ⟨j, c⟩ := c
    have hc := Memory.wfFrom_cons.mp h
    unfold writeByte
    split
    · next haj =>
      exact readByte_consCell a k b _ (fun _ => readByte_below (Memory.wfFrom_cons.mpr ⟨le_refl j, hc.2⟩) haj)
    · split
      · next haj =>
        subst haj
        rw [readByte_consCell a k b m (fun _ => readByte_below hc.2.2.2 (by omega))]
        by_cases hk : k = a
        · simp [hk]
        · simp [readByte, hk]
      · next _ haj =>
        rw [readByte, ih hc.2.2.2]
        by_cases hkj : k = j
        · rw [if_pos hkj, if_neg (by omega), readByte, if_pos hkj]
        · rw [if_neg hkj, readByte, if_neg hkj]

theorem readByte_writeByte {a : Nat} {m : Memory} (h : m.wf = true) (b : Byte) (k : Nat) :
    readByte (writeByte m a b) k = if k = a then b else readByte m k :=
  readByte_writeByte_from h b k

theorem writeByte_wf {a : Nat} {b : Byte} {m : Memory} (h : m.wf = true) (ha : a < 2 ^ 32) :
    (writeByte m a b).wf = true :=
  writeByte_wfFrom h (Nat.zero_le a) ha

theorem writeOne_wf {m : Memory} (h : m.wf = true) (a v : Word) : (writeOne m a v).wf = true :=
  writeByte_wf h a.isLt

theorem writeHalf_wf {m : Memory} (h : m.wf = true) (e : Endian) (a v : Word) : (writeHalf e m a v).wf = true := by
  cases e <;> exact writeByte_wf (writeByte_wf h a.isLt) (BitVec.isLt _)

theorem writeWord_wf {m : Memory} (h : m.wf = true) (e : Endian) (a v : Word) : (writeWord e m a v).wf = true := by
  cases e <;>
    exact writeByte_wf (writeByte_wf (writeByte_wf (writeByte_wf h a.isLt) (BitVec.isLt _)) (BitVec.isLt _))
      (BitVec.isLt _)

theorem writeWords_wf {m : Memory} (h : m.wf = true) (e : Endian) (l : List (Word × Word)) :
    (writeWords e m l).wf = true := by
  induction l generalizing m with
  | nil => exact h
  | cons c l ih => exact ih (writeWord_wf h e c.1 c.2)

theorem reset_mem_wf : State.reset.mem.wf = true := rfl

/-- In canonical form, equal contents are equal lists. -/
theorem Memory.ext_of_wfFrom {lo : Nat} {m q : Memory} (hm : Memory.wfFrom lo m = true)
    (hq : Memory.wfFrom lo q = true) (h : ∀ a, readByte m a = readByte q a) : m = q := by
  induction m generalizing lo q with
  | nil =>
    cases q with
    | nil => rfl
    | cons c q =>
      obtain ⟨k, b⟩ := c
      have hk := h k
      rw [readByte, readByte, if_pos rfl] at hk
      exact absurd hk.symm (Memory.wfFrom_cons.mp hq).2.2.1
  | cons c m ih =>
    obtain ⟨j, b⟩ := c
    have hm' := Memory.wfFrom_cons.mp hm
    cases q with
    | nil =>
      have hj := h j
      rw [readByte, readByte, if_pos rfl] at hj
      exact absurd hj hm'.2.2.1
    | cons d q =>
      obtain ⟨k, c⟩ := d
      have hq' := Memory.wfFrom_cons.mp hq
      have hjk : j = k := by
        rcases Nat.lt_trichotomy j k with hlt | heq | hgt
        · have hj := h j
          rw [readByte, if_pos rfl, readByte_below (Memory.wfFrom_cons.mpr ⟨le_refl k, hq'.2⟩) hlt] at hj
          exact absurd hj hm'.2.2.1
        · exact heq
        · have hk := h k
          rw [readByte_below (Memory.wfFrom_cons.mpr ⟨le_refl j, hm'.2⟩) hgt, readByte, if_pos rfl] at hk
          exact absurd hk.symm hq'.2.2.1
      subst hjk
      have hb : b = c := by simpa [readByte] using h j
      subst hb
      have hrest : m = q := by
        refine ih hm'.2.2.2 hq'.2.2.2 (fun a => ?_)
        by_cases ha : a = j
        · rw [ha, readByte_below hm'.2.2.2 (by omega), readByte_below hq'.2.2.2 (by omega)]
        · simpa [readByte, ha] using h a
      rw [hrest]

theorem Memory.ext {m q : Memory} (hm : m.wf = true) (hq : q.wf = true) (h : ∀ a, readByte m a = readByte q a) :
    m = q :=
  Memory.ext_of_wfFrom hm hq h

end Sys2Proof.Machine
end

