-- ==== Sys2Proof/Laws/Launch.lean ====
section
/-! SUPPORT. What a launch can do, said once, and what loading bytes does to memory. -/

namespace Sys2Proof.Machine

/-- A launch gives a state exactly when its entry is even and its sets are apart; and which state that is. -/
theorem launch_eq_ok {l : Launch} {s : State} :
    launch l = .ok s ↔
      l.entry.getLsbD 0 = false ∧ setsApart l.params.mem.writable l.params.mem.fetchable = true ∧
        s = { State.reset with
              regs := l.regs
              pc := l.entry
              cpsr := ⟨l.n, l.z, l.c, l.v, 0#20, l.i, l.f, true, l.mode⟩
              mem := loadBytes [] l.contents
              params := l.params
              events := l.events } := by
  unfold launch
  split
  · next ho => exact ⟨(nomatch ·), fun h => absurd (ho.symm.trans h.1) Bool.noConfusion⟩
  · next ho =>
    split
    · next ha =>
      exact ⟨fun h => ⟨Bool.not_eq_true _ ▸ ho, ha, (Except.ok.inj h).symm⟩, fun h => congrArg Except.ok h.2.2.symm⟩
    · next ha => exact ⟨(nomatch ·), fun h => absurd h.2.1 ha⟩

/-- Loading bytes keeps the canonical form. -/
theorem loadBytes_wf {m : Memory} (h : m.wf = true) (l : List Host.Cell) : (loadBytes m l).wf = true := by
  induction l generalizing m with
  | nil => exact h
  | cons c l ih =>
    rw [loadBytes]
    split
    · next ha => exact ih (writeByte_wf h ha)
    · exact ih h

/-- One cell loaded: its byte is written when its address is below 2^32. -/
theorem readByte_loadCell {m : Memory} (h : m.wf = true) (c : Host.Cell) (k : Nat) :
    readByte (loadBytes m [c]) k = if k = c.1 ∧ c.1 < 2 ^ 32 then c.2 else readByte m k := by
  simp only [loadBytes]
  split
  · next ha => simp only [readByte_writeByte h, and_iff_left ha]
  · next ha => rw [if_neg fun hk => ha hk.2]

/-- Loading one list of bytes after another. -/
theorem loadBytes_append (m : Memory) (l r : List Host.Cell) : loadBytes m (l ++ r) = loadBytes (loadBytes m l) r := by
  induction l generalizing m with
  | nil => rfl
  | cons c l ih => exact ih _

/-- Two regions are apart exactly when no byte is in both. -/
theorem regionsApart_iff {r q : Region} :
    regionsApart r q = true ↔ ∀ a, inRegion a r = true → inRegion a q = false := by
  simp only [regionsApart, inRegion, Bool.or_eq_true, Bool.and_eq_true, decide_eq_true_eq, Bool.and_eq_false_iff,
    decide_eq_false_iff_not]
  constructor
  · intro h a ha
    omega
  · intro h
    have := h (max r.base q.base)
    omega

end Sys2Proof.Machine
end

