-- ==== Sys2Proof/Laws/Regs.lean ====
section
/-! SUPPORT. Registers: a read after a write, the banks, which register a number names. -/

namespace Sys2Proof.Machine

@[simp] theorem BankedWord.get_set_same (w : BankedWord) (b : Bank) (v : Word) : (w.set b v).get b = v := by
  cases b <;> rfl

theorem BankedWord.get_set_ne (w : BankedWord) {b c : Bank} (h : c ≠ b) (v : Word) :
    (w.set b v).get c = w.get c := by
  cases b <;> cases c <;> first | rfl | exact absurd rfl h

/-- A register reads as what was written to it. -/
@[simp] theorem RegFile.get_set_same (r : RegFile) (p : PhysReg) (v : Word) : (r.set p v).get p = v := by
  cases p <;> simp [RegFile.get, RegFile.set]

/-- A write changes no other register. -/
theorem RegFile.get_set_ne (r : RegFile) {p q : PhysReg} (h : q ≠ p) (v : Word) :
    (r.set p v).get q = r.get q := by
  cases p <;> cases q <;> simp_all [RegFile.get, RegFile.set, BankedWord.get_set_ne]
  case lo.lo a b => exact Vector.getElem_set_ne _ _ (fun e => h (BitVec.eq_of_toNat_eq e.symm))
  case mid.mid a b => exact Vector.getElem_set_ne _ _ (fun e => h (Fin.ext e.symm))
  case midFiq.midFiq a b => exact Vector.getElem_set_ne _ _ (fun e => h (Fin.ext e.symm))

/-- A read after a write, in one line. -/
theorem RegFile.get_set (r : RegFile) (p q : PhysReg) (v : Word) :
    (r.set p v).get q = if q = p then v else r.get q := by
  split
  · next h => rw [h, RegFile.get_set_same]
  · next h => exact RegFile.get_set_ne r h v

theorem SpsrFile.get_set_same (f : SpsrFile) {b : Bank} (h : b ≠ .usr) (p : PSR) : (f.set b p).get b = some p := by
  cases b <;> first | rfl | exact absurd rfl h

theorem SpsrFile.get_set_ne (f : SpsrFile) {b c : Bank} (h : c ≠ b) (p : PSR) : (f.set b p).get c = f.get c := by
  cases b <;> cases c <;> first | rfl | exact absurd rfl h

/-- r15 alone is no physical register (R23, R24). -/
theorem physOf_eq_none (m : Mode) (i : Reg) : physOf m i = none ↔ i = 15#4 := by
  cases m <;> revert i <;> decide

/-- The 4-bit number of a Lo register names it in every mode (R88). -/
@[simp] theorem physOf_lo (m : Mode) (r : LoReg) : physOf m (0#1 ++ r) = some (.lo r) := by
  cases m <;> revert r <;> decide

/-- Two different numbers never name one register of a mode. -/
theorem physOf_injective (m : Mode) {i j : Reg} {p : PhysReg} (hi : physOf m i = some p) (hj : physOf m j = some p) :
    i = j := by
  have h := hi.trans hj.symm
  clear hi hj
  cases m <;> revert i j <;> decide

@[simp] theorem State.lo_setPhys_same (s : State) (d : LoReg) (v : Word) : (s.setPhys (.lo d) v).lo d = v := by
  simp [State.lo]

@[simp] theorem State.lo_setLo_same (s : State) (d : LoReg) (v : Word) : (s.setLo d v).lo d = v := by
  simp [State.lo]

theorem State.lo_setLo_ne (s : State) {d n : LoReg} (h : n ≠ d) (v : Word) : (s.setLo d v).lo n = s.lo n := by
  simp [State.lo, RegFile.get_set, h]

@[simp] theorem State.sp_setSp (s : State) (v : Word) : (s.setSp v).sp = v := by simp [State.sp]

@[simp] theorem State.lr_setLr (s : State) (v : Word) : (s.setLr v).lr = v := by simp [State.lr]

@[simp] theorem State.sp_setLo (s : State) (d : LoReg) (v : Word) : (s.setLo d v).sp = s.sp := by
  simp [State.sp, RegFile.get_set]

@[simp] theorem State.lr_setLo (s : State) (d : LoReg) (v : Word) : (s.setLo d v).lr = s.lr := by
  simp [State.lr, RegFile.get_set]

@[simp] theorem State.lo_setSp (s : State) (n : LoReg) (v : Word) : (s.setSp v).lo n = s.lo n := by
  simp [State.lo, RegFile.get_set]

@[simp] theorem State.lo_setLr (s : State) (n : LoReg) (v : Word) : (s.setLr v).lo n = s.lo n := by
  simp [State.lo, RegFile.get_set]

@[simp] theorem State.lo_setMem (s : State) (n : LoReg) (m : Memory) : (s.setMem m).lo n = s.lo n := rfl

@[simp] theorem State.lo_setPc (s : State) (n : LoReg) (v : Word) : (s.setPc v).lo n = s.lo n := rfl

@[simp] theorem State.lo_setCpsr (s : State) (n : LoReg) (p : PSR) : (s.setCpsr p).lo n = s.lo n := rfl

@[simp] theorem State.sp_setPc (s : State) (v : Word) : (s.setPc v).sp = s.sp := rfl

@[simp] theorem State.sp_setMem (s : State) (m : Memory) : (s.setMem m).sp = s.sp := rfl

@[simp] theorem State.lr_setPc (s : State) (v : Word) : (s.setPc v).lr = s.lr := rfl

end Sys2Proof.Machine
end

