-- ==== Sys2Proof/Laws/Ops.lean ====
section
/-! SUPPORT. What each shared operation can do, said once: if it answers a next state, then what that state is. -/

namespace Sys2Proof.Machine

theorem advance_next {s t : State} :
    advance s = .next t ↔ s.pc ≠ 0xFFFFFFFE#32 ∧ t = s.setPc (s.pc + 2#32) := by
  unfold advance
  split
  · next h => simp [h]
  · next h => simp [h, eq_comm]

theorem advance_eq {s : State} (h : s.pc ≠ 0xFFFFFFFE#32) : advance s = .next (s.setPc (s.pc + 2#32)) :=
  advance_next.mpr ⟨h, rfl⟩

theorem advance_wrap {s : State} (h : s.pc = 0xFFFFFFFE#32) : advance s = .refused .sequentialWrap := if_pos h

/-- A write to a 4-bit register: a physical register and on, or a branch by r15 (R27). -/
theorem writeReg_next {d : Reg} {v : Word} {s t : State} (h : writeReg d v s = .next t) :
    (∃ p, physOf s.cpsr.m d = some p ∧ s.pc ≠ 0xFFFFFFFE#32 ∧ t = (s.setPhys p v).setPc (s.pc + 2#32)) ∨
    (d = 15#4 ∧ t = s.setPc (clearBit0 v)) := by
  unfold writeReg at h
  split at h
  · next p hp =>
    obtain ⟨hpc, ht⟩ := advance_next.mp h
    exact .inl ⟨p, hp, hpc, ht⟩
  · next hp => exact .inr ⟨(physOf_eq_none _ _).mp hp, by simpa using h.symm⟩

/-- An interworking branch: to Thumb code by bit 0, or to a word-aligned ARM target (R125). -/
theorem interwork_next {c : Cause} {bad : Refusal} {v : Word} {s t : State} (h : interwork c bad v s = .next t) :
    (v.getLsbD 0 = true ∧ t = (s.setCpsr { s.cpsr with t := true }).setPc (clearBit0 v)) ∨
    (v.getLsbD 0 = false ∧ v.getLsbD 1 = false ∧
      t = ((s.setCpsr { s.cpsr with t := false }).setPc v).finish (.leftThumb c)) := by
  unfold interwork at h
  split at h
  · next h0 => exact .inl ⟨h0, by simpa using h.symm⟩
  · next h0 =>
    split at h
    · cases h
    · next h1 => exact .inr ⟨by simpa using h0, by simpa using h1, by simpa using h.symm⟩

theorem writeSum_next {d : LoReg} {r : SumResult} {s t : State} (h : writeSum d r s = .next t) :
    s.pc ≠ 0xFFFFFFFE#32 ∧ t = ((s.setLo d r.result).setCpsr (s.cpsr.withSum r)).setPc (s.pc + 2#32) :=
  advance_next.mp h

theorem compareSum_next {r : SumResult} {s t : State} (h : compareSum r s = .next t) :
    s.pc ≠ 0xFFFFFFFE#32 ∧ t = (s.setCpsr (s.cpsr.withSum r)).setPc (s.pc + 2#32) :=
  advance_next.mp h

theorem writeLogic_next {d : LoReg} {r : Word} {s t : State} (h : writeLogic d r s = .next t) :
    s.pc ≠ 0xFFFFFFFE#32 ∧ t = ((s.setLo d r).setCpsr (s.cpsr.withNZ r)).setPc (s.pc + 2#32) :=
  advance_next.mp h

theorem compareLogic_next {r : Word} {s t : State} (h : compareLogic r s = .next t) :
    s.pc ≠ 0xFFFFFFFE#32 ∧ t = (s.setCpsr (s.cpsr.withNZ r)).setPc (s.pc + 2#32) :=
  advance_next.mp h

theorem writeShift_next {d : LoReg} {r : ShiftResult} {s t : State} (h : writeShift d r s = .next t) :
    s.pc ≠ 0xFFFFFFFE#32 ∧ t = ((s.setLo d r.result).setCpsr (s.cpsr.withShift r)).setPc (s.pc + 2#32) :=
  advance_next.mp h

/-- The checks grant an access exactly when it is aligned and admitted (R53, R55, R56). -/
theorem checkAccess_granted {s : State} {k : AccessKind} {a : Word} {n : Nat} :
    checkAccess s k a n = .granted ↔ a.toNat % n = 0 ∧ admits s.params.mem k a n = true := by
  unfold checkAccess
  split
  · next h => by_cases hm : admits s.params.mem k a n = true <;> simp [h, hm]
  · next h => cases s.params.alignPolicy <;> simp [h]

theorem checkWords_granted {s : State} {k : AccessKind} {as : List Word} :
    checkWords s k as = .granted ↔ ∀ a ∈ as, checkAccess s k a 4 = .granted := by
  induction as with
  | nil => simp [checkWords]
  | cons a as ih =>
    unfold checkWords
    split
    · next h => simp [h, ih]
    · next h => simp; exact fun h' => absurd h' h

/-- A guarded access that answers a next state was granted, or took the Data abort. -/
theorem guarded_next {c : Access} {s t : State} {done : Result} (h : guarded c s done = .next t) :
    (c = .granted ∧ done = .next t) ∨ (∃ a, c = .aborts a ∧ t = takeException (.dataAbort a) s) := by
  cases c with
  | granted => exact .inl ⟨rfl, h⟩
  | aborts a => exact .inr ⟨a, rfl, by simpa [guarded] using h.symm⟩
  | refuses a => simp [guarded] at h

theorem loadLo_next {k : LoadKind} {d : LoReg} {a : Word} {s t : State} (h : loadLo k d a s = .next t) :
    (checkAccess s .read a k.size = .granted ∧ s.pc ≠ 0xFFFFFFFE#32 ∧
      t = (s.setLo d (loadValue s k a)).setPc (s.pc + 2#32)) ∨
    (∃ b, checkAccess s .read a k.size = .aborts b ∧ t = takeException (.dataAbort b) s) := by
  rcases guarded_next h with ⟨hg, hd⟩ | hab
  · exact .inl ⟨hg, advance_next.mp hd⟩
  · exact .inr hab

theorem storeLo_next {k : StoreKind} {d : LoReg} {a : Word} {s t : State} (h : storeLo k d a s = .next t) :
    (checkAccess s .write a k.size = .granted ∧ s.pc ≠ 0xFFFFFFFE#32 ∧
      t = (s.setMem (storeValue s k a (s.lo d))).setPc (s.pc + 2#32)) ∨
    (∃ b, checkAccess s .write a k.size = .aborts b ∧ t = takeException (.dataAbort b) s) := by
  rcases guarded_next h with ⟨hg, hd⟩ | hab
  · exact .inl ⟨hg, advance_next.mp hd⟩
  · exact .inr hab

theorem storeValue_wf {s : State} (h : s.mem.wf = true) (k : StoreKind) (a v : Word) :
    (storeValue s k a v).wf = true := by
  cases k
  · exact writeWord_wf h _ a v
  · exact writeHalf_wf h _ a v
  · exact writeOne_wf h a v

/-- Loading registers from memory changes Lo registers only. -/
theorem loadRegs_fields (e : Endian) (m : Memory) (s : State) (l : List (LoReg × Word)) :
    (loadRegs e m s l).pc = s.pc ∧ (loadRegs e m s l).cpsr = s.cpsr ∧ (loadRegs e m s l).spsr = s.spsr ∧
    (loadRegs e m s l).mem = s.mem ∧ (loadRegs e m s l).params = s.params ∧ (loadRegs e m s l).events = s.events ∧
    (loadRegs e m s l).stepNo = s.stepNo ∧ (loadRegs e m s l).ended = s.ended ∧
    (loadRegs e m s l).output = s.output ∧ (loadRegs e m s l).freeIdx = s.freeIdx := by
  induction l generalizing s with
  | nil => exact ⟨rfl, rfl, rfl, rfl, rfl, rfl, rfl, rfl, rfl, rfl⟩
  | cons c l ih => exact ih (s.setLo c.1 (readWord e m c.2))

theorem loadRegs_get_other (e : Endian) (m : Memory) (s : State) (l : List (LoReg × Word)) {p : PhysReg}
    (h : ∀ c ∈ l, p ≠ .lo c.1) : (loadRegs e m s l).regs.get p = s.regs.get p := by
  induction l generalizing s with
  | nil => rfl
  | cons c l ih =>
    rw [loadRegs, ih _ (fun d hd => h d (List.mem_cons_of_mem _ hd)), State.setLo_regs,
      RegFile.get_set_ne _ (h c (List.mem_cons_self ..))]

/-! Exceptions. -/

theorem takeException_eq {e : Exc} (h : e ≠ .reset) (s : State) : takeException e s = enterException e s := by
  cases e <;> first | rfl | exact absurd rfl h

@[simp] theorem enterException_pc (e : Exc) (s : State) : (enterException e s).pc = e.vector := rfl

@[simp] theorem enterException_regs (e : Exc) (s : State) :
    (enterException e s).regs = s.regs.set (.lr (bankOf e.mode)) (returnLink e s) := rfl

@[simp] theorem enterException_spsr (e : Exc) (s : State) :
    (enterException e s).spsr = s.spsr.set (bankOf e.mode) s.cpsr := rfl

@[simp] theorem enterException_cpsr (e : Exc) (s : State) :
    (enterException e s).cpsr = { s.cpsr with m := e.mode, t := false, i := true, f := s.cpsr.f || e.masksFiq } := rfl

@[simp] theorem enterException_mem (e : Exc) (s : State) : (enterException e s).mem = s.mem := rfl

@[simp] theorem enterException_params (e : Exc) (s : State) : (enterException e s).params = s.params := rfl

@[simp] theorem enterException_events (e : Exc) (s : State) : (enterException e s).events = s.events := rfl

@[simp] theorem enterException_ended (e : Exc) (s : State) :
    (enterException e s).ended = some (.leftThumb (.exception e)) := rfl

/-- Of a Reset too: the pc, memory, parameters, events and the end of the run. -/
theorem takeException_common (e : Exc) (s : State) :
    (takeException e s).pc = e.vector ∧ (takeException e s).mem = s.mem ∧ (takeException e s).params = s.params ∧
    (takeException e s).events = s.events ∧ (takeException e s).stepNo = s.stepNo ∧
    (takeException e s).output = s.output ∧ (takeException e s).ended = some (.leftThumb (.exception e)) := by
  cases e <;> exact ⟨rfl, rfl, rfl, rfl, rfl, rfl, rfl⟩

/-- Of a Reset too: the control fields of the CPSR. -/
theorem takeException_cpsr (e : Exc) (s : State) :
    (takeException e s).cpsr.m = e.mode ∧ (takeException e s).cpsr.t = false ∧ (takeException e s).cpsr.i = true ∧
    (takeException e s).cpsr.f = (s.cpsr.f || e.masksFiq) := by
  cases e <;> exact ⟨rfl, rfl, rfl, rfl⟩

theorem stopped_eq_none {s : State} : stopped s = none ↔ s.ended = none ∧ s.cpsr.t = true := by
  unfold stopped
  split <;> simp_all

/-- What a step that answers a next state did: a pending exception, a Prefetch abort, or the instruction fetched. -/
theorem step_next {s t : State} (h : step s = .next t) :
    s.ended = none ∧ s.cpsr.t = true ∧ ∃ u, t = { u with stepNo := u.stepNo + 1 } ∧
      ((∃ e, pendingException s = some e ∧ u = takeException e s) ∨
       (pendingException s = none ∧ fetchHalf s = none ∧ u = takeException (.prefetchAbort s.pc) s) ∨
       (∃ w, pendingException s = none ∧ fetchHalf s = some w ∧ exec (decodeHalf w) s = .next u)) := by
  unfold step at h
  split at h
  · cases h
  · next hs =>
    obtain ⟨u, hu, ht⟩ := countStep_next h
    refine ⟨(stopped_eq_none.mp hs).1, (stopped_eq_none.mp hs).2, u, ht, ?_⟩
    split at hu
    · next e he => exact .inl ⟨e, he, by simpa using hu.symm⟩
    · next hp =>
      split at hu
      · next hf => exact .inr (.inl ⟨hp, hf, by simpa using hu.symm⟩)
      · next w hf => exact .inr (.inr ⟨w, hp, hf, hu⟩)

end Sys2Proof.Machine
end

