-- ==== Sys2Proof/Laws/Transfers.lean ====
section
/-! SUPPORT. What writes of several bytes change, which addresses and registers a list transfer names, and what a
conditional branch can do. -/

namespace Sys2Proof.Machine

/-! Bytes written. -/

theorem readByte_writeOne {m : Memory} (h : m.wf = true) (a v : Word) (k : Nat) :
    readByte (writeOne m a v) k = if k = a.toNat then byteOf v 0 else readByte m k :=
  readByte_writeByte h _ _

theorem readByte_writeHalf {m : Memory} (h : m.wf = true) (e : Endian) (a v : Word) (k : Nat) :
    readByte (writeHalf e m a v) k =
      if k = (a + 1#32).toNat then (match e with | .little => byteOf v 1 | .big => byteOf v 0)
      else if k = a.toNat then (match e with | .little => byteOf v 0 | .big => byteOf v 1)
      else readByte m k := by
  cases e <;> simp only [writeHalf, readByte_writeByte (writeByte_wf h a.isLt), readByte_writeByte h]

theorem readByte_writeWord {m : Memory} (h : m.wf = true) (e : Endian) (a v : Word) (k : Nat) :
    readByte (writeWord e m a v) k =
      if k = (a + 3#32).toNat then (match e with | .little => byteOf v 3 | .big => byteOf v 0)
      else if k = (a + 2#32).toNat then (match e with | .little => byteOf v 2 | .big => byteOf v 1)
      else if k = (a + 1#32).toNat then (match e with | .little => byteOf v 1 | .big => byteOf v 2)
      else if k = a.toNat then (match e with | .little => byteOf v 0 | .big => byteOf v 3)
      else readByte m k := by
  have h1 := fun b => writeByte_wf (b := b) h a.isLt
  have h2 := fun b c => writeByte_wf (b := c) (h1 b) (a + 1#32).isLt
  have h3 := fun b c d => writeByte_wf (b := d) (h2 b c) (a + 2#32).isLt
  cases e <;>
    simp only [writeWord, readByte_writeByte (h3 _ _ _), readByte_writeByte (h2 _ _), readByte_writeByte (h1 _),
      readByte_writeByte h]

/-- The byte addresses of an access, by offset. -/
theorem mem_byteAddrs {a : Word} {n k : Nat} :
    k ∈ byteAddrs a n ↔ ∃ j < n, k = (a + BitVec.ofNat 32 j).toNat := by
  induction n generalizing a with
  | zero => simp [byteAddrs]
  | succ n ih =>
    rw [byteAddrs, List.mem_cons, ih]
    constructor
    · rintro (rfl | ⟨j, hj, rfl⟩)
      · exact ⟨0, by omega, by simp⟩
      · exact ⟨j + 1, by omega, by congr 1; rw [BitVec.add_assoc, ← BitVec.ofNat_add, Nat.add_comm 1 j]⟩
    · rintro ⟨j, hj, rfl⟩
      cases j with
      | zero => exact .inl (by simp)
      | succ j =>
        exact .inr ⟨j, by omega, by congr 1; rw [BitVec.add_assoc, ← BitVec.ofNat_add, Nat.add_comm 1 j]⟩

/-- A word write leaves every byte outside its four alone. -/
theorem readByte_writeWord_other {m : Memory} (h : m.wf = true) (e : Endian) (a v : Word) {k : Nat}
    (hk : k ∉ byteAddrs a 4) : readByte (writeWord e m a v) k = readByte m k := by
  have hne : ∀ j < 4, k ≠ (a + BitVec.ofNat 32 j).toNat := fun j hj he => hk (mem_byteAddrs.mpr ⟨j, hj, he⟩)
  have h0 : k ≠ a.toNat := by simpa using hne 0 (by omega)
  rw [readByte_writeWord h, if_neg (hne 3 (by omega)), if_neg (hne 2 (by omega)), if_neg (hne 1 (by omega)), if_neg h0]

/-- Word writes leave every byte outside their words alone. -/
theorem readByte_writeWords_other {m : Memory} (h : m.wf = true) (e : Endian) (l : List (Word × Word)) {k : Nat}
    (hk : ∀ c ∈ l, k ∉ byteAddrs c.1 4) : readByte (writeWords e m l) k = readByte m k := by
  induction l generalizing m with
  | nil => rfl
  | cons c l ih =>
    rw [writeWords, ih (writeWord_wf h e c.1 c.2) (fun d hd => hk d (List.mem_cons_of_mem _ hd)),
      readByte_writeWord_other h e c.1 c.2 (hk c (List.mem_cons_self ..))]

/-! Addresses and registers of a list. -/

theorem wordAddrs_eq (a : Word) (n : Nat) :
    wordAddrs a n = (List.range n).map fun j => a + BitVec.ofNat 32 (4 * j) := by
  induction n generalizing a with
  | zero => rfl
  | succ n ih =>
    rw [wordAddrs, ih, List.range_succ_eq_map, List.map_cons, List.map_map]
    refine congrArg₂ _ (by simp) (List.map_congr_left fun j _ => ?_)
    rw [Function.comp_apply, BitVec.add_assoc, ← BitVec.ofNat_add]
    congr 2
    omega

@[simp] theorem length_wordAddrs (a : Word) (n : Nat) : (wordAddrs a n).length = n := by
  simp [wordAddrs_eq]

theorem mem_listRegs {list : BitVec 8} {i : LoReg} : i ∈ listRegs list ↔ list.getLsbD i.toNat = true := by
  rw [listRegs, List.mem_filter]
  have hall : ∀ j : LoReg, j ∈ [0#3, 1#3, 2#3, 3#3, 4#3, 5#3, 6#3, 7#3] := by decide
  exact ⟨And.right, fun h => ⟨hall i, h⟩⟩

theorem listRegs_nodup (list : BitVec 8) : (listRegs list).Nodup := List.Nodup.filter _ (by decide)

/-- Loading registers gives each listed register the word at its address. -/
theorem loadRegs_lo (e : Endian) (m : Memory) (s : State) {l : List (LoReg × Word)} (hn : (l.map Prod.fst).Nodup)
    {r : LoReg} {a : Word} (h : (r, a) ∈ l) : (loadRegs e m s l).lo r = readWord e m a := by
  induction l generalizing s with
  | nil => cases h
  | cons c l ih =>
    rw [List.map_cons, List.nodup_cons] at hn
    rcases List.mem_cons.mp h with rfl | h
    · have hr : ∀ d ∈ l, PhysReg.lo r ≠ .lo d.1 := fun d hd he =>
        hn.1 (List.mem_map.mpr ⟨d, hd, (PhysReg.lo.inj he).symm⟩)
      exact (loadRegs_get_other e m (s.setLo r (readWord e m a)) l hr).trans (State.lo_setLo_same s r _)
    · exact ih (s.setLo c.1 (readWord e m c.2)) hn.2 h

/-! Branches. -/

/-- What a conditional branch that answers a next state did. -/
theorem branchIf_next {c : Cond} {off : BitVec 8} {s t : State} (h : branchIf c off s = .next t) :
    (conditionPassed c s.cpsr = true ∧ t = s.setPc (s.pcValue + branchOffset off)) ∨
    (conditionPassed c s.cpsr = false ∧ s.pc ≠ 0xFFFFFFFE#32 ∧ t = s.setPc (s.pc + 2#32)) := by
  unfold branchIf at h
  split at h
  · next hc => exact .inl ⟨hc, by simpa using h.symm⟩
  · next hc => exact .inr ⟨by simpa using hc, advance_next.mp h⟩

end Sys2Proof.Machine
end

