-- ==== Sys2Proof/Tests/Slice0.lean ====
section
/-! SUPPORT. Tests: words written out from the spec's encodings decode to their instructions; the checks of
WellFormed; single steps with the results of spec/95_test_vectors.md (its section stands beside each group) or hand
calculation from the cited rule. -/

namespace Sys2Proof.Tests

open Sys2Proof Sys2Proof.Machine

/-- User-mode Thumb code at `pc` with flags NZCV (four bits), some registers and memory; the rest as at reset. -/
def st (pc : Word) (nzcv : BitVec 4) (rs : List (PhysReg × Word)) (m : List Host.Cell) : State :=
  { State.reset with
    pc := pc
    cpsr := ⟨nzcv.getLsbD 3, nzcv.getLsbD 2, nzcv.getLsbD 1, nzcv.getLsbD 0, 0#20, false, false, true, .user⟩
    regs := rs.foldl (fun r p => r.set p.1 p.2) RegFile.zero
    mem := m }

/-- The flags NZCV of a state as four bits. -/
def nzcv (s : State) : BitVec 4 :=
  BitVec.ofBool s.cpsr.n ++ BitVec.ofBool s.cpsr.z ++ BitVec.ofBool s.cpsr.c ++ BitVec.ofBool s.cpsr.v

/-- Executing a halfword gives a next state that passes the check. -/
def gives (w : Half) (s : State) (f : State → Bool) : Bool :=
  match exec (decodeHalf w) s with
  | .next t => f t
  | _ => false

/-- Executing a halfword is refused for the given reason. -/
def refuses (w : Half) (s : State) (r : Refusal) : Bool :=
  match exec (decodeHalf w) s with
  | .refused q => q == r
  | _ => false

/-- One step gives a next state that passes the check. -/
def steps (s : State) (f : State → Bool) : Bool :=
  match step s with
  | .next t => f t
  | _ => false

/-- The same state under architecture v4T. -/
def v4T (s : State) : State := { s with params := { s.params with arch := .v4T } }

/-- The same state with `SWI_ENV = semihost`. -/
def semihosted (s : State) : State := { s with params := { s.params with swiEnv := .semihost } }

/-- The same state with `ENDIAN = big`. -/
def bigEndian (s : State) : State := { s with params := { s.params with endian := .big } }

/-- The same state with the given input schedule. -/
def scheduled (e : Events) (s : State) : State := { s with events := e }

/-- The same state with both interrupts masked. -/
def masked (s : State) : State := { s with cpsr := { s.cpsr with i := true, f := true } }

/-- The same state with `ALIGN_POLICY = refuse`. -/
def refusing (s : State) : State := { s with params := { s.params with alignPolicy := .refuse } }

/-- Admission of 0x8000 to 0x8FFF for fetch and 0x9000 to 0xFFFF for data. -/
def smallMap : MemMap := ⟨[⟨0x8000, 0x8000⟩], [⟨0x9000, 0x7000⟩], [⟨0x8000, 0x1000⟩]⟩

/-- The same state with that admission. -/
def mapped (s : State) : State := { s with params := { s.params with mem := smallMap } }


/-! Decoding: words written out bit by bit from 30_encoding.md R82 to R86, R89, R91. -/

theorem test_decode_lslImm : decodeHalf 0b0000000100001000#16 = .lslImm 0#3 1#3 4#5 := by decide
theorem test_decode_lsrImm : decodeHalf 0b0000111000000010#16 = .lsrImm 2#3 0#3 24#5 := by decide
theorem test_decode_asrImm : decodeHalf 0b0001000001001000#16 = .asrImm 0#3 1#3 1#5 := by decide
theorem test_decode_addReg : decodeHalf 0b0001100010001000#16 = .addReg 0#3 1#3 2#3 := by decide
theorem test_decode_subReg : decodeHalf 0b0001101010001000#16 = .subReg 0#3 1#3 2#3 := by decide
theorem test_decode_addImm3 : decodeHalf 0b0001110001001001#16 = .addImm3 1#3 1#3 1#3 := by decide
theorem test_decode_subImm3 : decodeHalf 0b0001111111011010#16 = .subImm3 2#3 3#3 7#3 := by decide
theorem test_decode_movImm8 : decodeHalf 0b0010001111111111#16 = .movImm8 3#3 255#8 := by decide
theorem test_decode_cmpImm8 : decodeHalf 0b0010100100000010#16 = .cmpImm8 1#3 2#8 := by decide
theorem test_decode_addImm8 : decodeHalf 0b0011000100000001#16 = .addImm8 1#3 1#8 := by decide
theorem test_decode_subImm8 : decodeHalf 0b0011100100000001#16 = .subImm8 1#3 1#8 := by decide
theorem test_decode_andReg : decodeHalf 0b0100000000001110#16 = .andReg 6#3 1#3 := by decide
theorem test_decode_eorReg : decodeHalf 0b0100000001001110#16 = .eorReg 6#3 1#3 := by decide
theorem test_decode_lslReg : decodeHalf 0b0100000010001110#16 = .lslReg 6#3 1#3 := by decide
theorem test_decode_lsrReg : decodeHalf 0b0100000011001110#16 = .lsrReg 6#3 1#3 := by decide
theorem test_decode_asrReg : decodeHalf 0b0100000100001110#16 = .asrReg 6#3 1#3 := by decide
theorem test_decode_adc : decodeHalf 0b0100000101001110#16 = .adc 6#3 1#3 := by decide
theorem test_decode_sbc : decodeHalf 0b0100000110001110#16 = .sbc 6#3 1#3 := by decide
theorem test_decode_rorReg : decodeHalf 0b0100000111001110#16 = .rorReg 6#3 1#3 := by decide
theorem test_decode_tst : decodeHalf 0b0100001000001110#16 = .tst 6#3 1#3 := by decide
theorem test_decode_neg : decodeHalf 0b0100001001001110#16 = .neg 6#3 1#3 := by decide
theorem test_decode_cmpReg : decodeHalf 0b0100001010001110#16 = .cmpReg 6#3 1#3 := by decide
theorem test_decode_cmn : decodeHalf 0b0100001011001110#16 = .cmn 6#3 1#3 := by decide
theorem test_decode_orr : decodeHalf 0b0100001100001110#16 = .orr 6#3 1#3 := by decide
theorem test_decode_mul : decodeHalf 0b0100001101001110#16 = .mul 6#3 1#3 := by decide
theorem test_decode_bic : decodeHalf 0b0100001110001110#16 = .bic 6#3 1#3 := by decide
theorem test_decode_mvn : decodeHalf 0b0100001111001110#16 = .mvn 6#3 1#3 := by decide
theorem test_decode_addHi : decodeHalf 0b0100010010000101#16 = .addHi 13#4 0#4 := by decide
theorem test_decode_cmpHi : decodeHalf 0b0100010111001000#16 = .cmpHi 8#4 9#4 := by decide
theorem test_decode_movHi : decodeHalf 0b0100011011110111#16 = .movHi 15#4 14#4 := by decide
theorem test_decode_bx : decodeHalf 0b0100011101110000#16 = .bx 14#4 0#3 := by decide
theorem test_decode_blxReg : decodeHalf 0b0100011111000000#16 = .blxReg 8#4 0#3 := by decide
theorem test_decode_ldrPc : decodeHalf 0b0100100100000110#16 = .ldrPc 1#3 6#8 := by decide
theorem test_decode_strReg : decodeHalf 0b0101000010001111#16 = .strReg 7#3 1#3 2#3 := by decide
theorem test_decode_strhReg : decodeHalf 0b0101001010001111#16 = .strhReg 7#3 1#3 2#3 := by decide
theorem test_decode_strbReg : decodeHalf 0b0101010010001111#16 = .strbReg 7#3 1#3 2#3 := by decide
theorem test_decode_ldrsbReg : decodeHalf 0b0101011010001111#16 = .ldrsbReg 7#3 1#3 2#3 := by decide
theorem test_decode_ldrReg : decodeHalf 0b0101100010001111#16 = .ldrReg 7#3 1#3 2#3 := by decide
theorem test_decode_ldrhReg : decodeHalf 0b0101101010001111#16 = .ldrhReg 7#3 1#3 2#3 := by decide
theorem test_decode_ldrbReg : decodeHalf 0b0101110010001111#16 = .ldrbReg 7#3 1#3 2#3 := by decide
theorem test_decode_ldrshReg : decodeHalf 0b0101111010001111#16 = .ldrshReg 7#3 1#3 2#3 := by decide
theorem test_decode_strImm : decodeHalf 0b0110000011001010#16 = .strImm 2#3 1#3 3#5 := by decide
theorem test_decode_ldrImm : decodeHalf 0b0110100011001010#16 = .ldrImm 2#3 1#3 3#5 := by decide
theorem test_decode_strbImm : decodeHalf 0b0111000011001010#16 = .strbImm 2#3 1#3 3#5 := by decide
theorem test_decode_ldrbImm : decodeHalf 0b0111100011001010#16 = .ldrbImm 2#3 1#3 3#5 := by decide
theorem test_decode_strhImm : decodeHalf 0b1000000011001010#16 = .strhImm 2#3 1#3 3#5 := by decide
theorem test_decode_ldrhImm : decodeHalf 0b1000100011001010#16 = .ldrhImm 2#3 1#3 3#5 := by decide
theorem test_decode_strSp : decodeHalf 0b1001010100000011#16 = .strSp 5#3 3#8 := by decide
theorem test_decode_ldrSp : decodeHalf 0b1001110100000011#16 = .ldrSp 5#3 3#8 := by decide
theorem test_decode_addPc : decodeHalf 0b1010010100000011#16 = .addPc 5#3 3#8 := by decide
theorem test_decode_addRdSp : decodeHalf 0b1010110100000011#16 = .addRdSp 5#3 3#8 := by decide
theorem test_decode_addSp : decodeHalf 0b1011000000000010#16 = .addSp 2#7 := by decide
theorem test_decode_subSp : decodeHalf 0b1011000010000010#16 = .subSp 2#7 := by decide
theorem test_decode_push : decodeHalf 0b1011010100010000#16 = .push true 0b00010000#8 := by decide
theorem test_decode_pop : decodeHalf 0b1011110000001111#16 = .pop false 0b00001111#8 := by decide
theorem test_decode_stmia : decodeHalf 0b1100000101111000#16 = .stmia 1#3 0b01111000#8 := by decide
theorem test_decode_ldmia : decodeHalf 0b1100100001111000#16 = .ldmia 0#3 0b01111000#8 := by decide
theorem test_decode_beq : decodeHalf 0b1101000011111100#16 = .beq 0b11111100#8 := by decide
theorem test_decode_bne : decodeHalf 0b1101000111111100#16 = .bne 0b11111100#8 := by decide
theorem test_decode_bcs : decodeHalf 0b1101001011111100#16 = .bcs 0b11111100#8 := by decide
theorem test_decode_bcc : decodeHalf 0b1101001111111100#16 = .bcc 0b11111100#8 := by decide
theorem test_decode_bmi : decodeHalf 0b1101010011111100#16 = .bmi 0b11111100#8 := by decide
theorem test_decode_bpl : decodeHalf 0b1101010111111100#16 = .bpl 0b11111100#8 := by decide
theorem test_decode_bvs : decodeHalf 0b1101011011111100#16 = .bvs 0b11111100#8 := by decide
theorem test_decode_bvc : decodeHalf 0b1101011111111100#16 = .bvc 0b11111100#8 := by decide
theorem test_decode_bhi : decodeHalf 0b1101100011111100#16 = .bhi 0b11111100#8 := by decide
theorem test_decode_bls : decodeHalf 0b1101100111111100#16 = .bls 0b11111100#8 := by decide
theorem test_decode_bge : decodeHalf 0b1101101011111100#16 = .bge 0b11111100#8 := by decide
theorem test_decode_blt : decodeHalf 0b1101101111111100#16 = .blt 0b11111100#8 := by decide
theorem test_decode_bgt : decodeHalf 0b1101110011111100#16 = .bgt 0b11111100#8 := by decide
theorem test_decode_ble : decodeHalf 0b1101110111111100#16 = .ble 0b11111100#8 := by decide
theorem test_decode_swi : decodeHalf 0b1101111100010001#16 = .swi 0x11#8 := by decide
theorem test_decode_b : decodeHalf 0b1110011111111001#16 = .b 0b11111111001#11 := by decide
theorem test_decode_blxLabel : decodeHalf 0b1110100001111110#16 = .blxLabel 0b0000111111#10 := by decide
theorem test_decode_blFirst : decodeHalf 0b1111011111111111#16 = .blFirst 0b11111111111#11 := by decide
theorem test_decode_blSecond : decodeHalf 0b1111111101111110#16 = .blSecond 0b11101111110#11 := by decide
theorem test_decode_undB1 : decodeHalf 0b1011000100000011#16 = .undB1 3#8 := by decide
theorem test_decode_undB2 : decodeHalf 0b1011001100000001#16 = .undB2 0b100000001#9 := by decide
theorem test_decode_undB6 : decodeHalf 0b1011011000000001#16 = .undB6 1#9 := by decide
theorem test_decode_undB8 : decodeHalf 0b1011101000000001#16 = .undB8 0b1000000001#10 := by decide
theorem test_decode_refuseU9 : decodeHalf 0b1011111000000001#16 = .refuseU9 1#8 := by decide
theorem test_decode_undBF : decodeHalf 0b1011111100000001#16 = .undBF 1#8 := by decide
theorem test_decode_undDE : decodeHalf 0b1101111000000001#16 = .undDE 1#8 := by decide
theorem test_decode_undE8 : decodeHalf 0b1110100000000011#16 = .undE8 1#10 := by decide
theorem test_decode_bytes_little : decode .little [0x88#8, 0x1A#8] = .ok (.subReg 0#3 1#3 2#3, []) := by decide
theorem test_decode_bytes_big : decode .big [0x1A#8, 0x88#8, 7#8] = .ok (.subReg 0#3 1#3 2#3, [7#8]) := by decide
theorem test_decode_too_short : decode .little [0x88#8] = .error .tooShort := by decide
theorem test_decode_table_word : decodeTableWord 16 0x1A88 = some (.subReg 0#3 1#3 2#3) := by decide

/-! WellFormed: an ill-formed term for each check of R92, and a well-formed one. -/

theorem test_wf_bothLo_add : wfCheck (.addHi 0#4 1#4) = some .bothLo := by decide
theorem test_wf_bothLo_cmp : wfCheck (.cmpHi 7#4 7#4) = some .bothLo := by decide
theorem test_wf_bothLo_mov : wfCheck (.movHi 0#4 7#4) = some .bothLo := by decide
theorem test_wf_cmpHiPc_n : wfCheck (.cmpHi 15#4 0#4) = some .cmpHiPc := by decide
theorem test_wf_cmpHiPc_m : wfCheck (.cmpHi 8#4 15#4) = some .cmpHiPc := by decide
theorem test_wf_sbz_bx : wfCheck (.bx 0#4 1#3) = some .sbzNonzero := by decide
theorem test_wf_sbz_blx : wfCheck (.blxReg 0#4 4#3) = some .sbzNonzero := by decide
theorem test_wf_blxPc : wfCheck (.blxReg 15#4 0#3) = some .blxPc := by decide
theorem test_wf_base_stmia : wfCheck (.stmia 0#3 0b11#8) = some .baseInList := by decide
theorem test_wf_base_ldmia : wfCheck (.ldmia 7#3 0x80#8) = some .baseInList := by decide
theorem test_wf_empty_stmia : wfCheck (.stmia 0#3 0#8) = some .emptyList := by decide
theorem test_wf_empty_ldmia : wfCheck (.ldmia 0#3 0#8) = some .emptyList := by decide
theorem test_wf_empty_push : wfCheck (.push false 0#8) = some .emptyList := by decide
theorem test_wf_empty_pop : wfCheck (.pop false 0#8) = some .emptyList := by decide
theorem test_wf_accepts : WellFormed (.movHi 8#4 8#4) ∧ WellFormed (.push true 0#8) ∧ WellFormed (.bx 15#4 0#3) :=
    by decide

/-! Data processing (95_test_vectors.md section 2.3). -/

theorem test_addReg_overflow : gives 0x1888#16 (st 0x8000#32 0b0000#4 [(.lo 1#3, 0x7FFFFFFF#32), (.lo 2#3, 0x1#32)]
    []) (fun t => t.lo 0#3 == 0x80000000#32 && nzcv t == 0b1001#4 && t.pc == 0x8002#32) = true := by decide
theorem test_subReg_borrow : gives 0x1A88#16 (st 0x8000#32 0b0000#4 [(.lo 1#3, 0x5#32), (.lo 2#3, 0x7#32)] []) (fun
    t => t.lo 0#3 == 0xFFFFFFFE#32 && nzcv t == 0b1000#4) = true := by decide
theorem test_subReg_overflow : gives 0x1A88#16 (st 0x8000#32 0b0000#4 [(.lo 1#3, 0x80000000#32), (.lo 2#3, 0x1#32)]
    []) (fun t => t.lo 0#3 == 0x7FFFFFFF#32 && nzcv t == 0b0011#4) = true := by decide
theorem test_addImm3_wraps : gives 0x1C49#16 (st 0x8000#32 0b0000#4 [(.lo 1#3, 0xFFFFFFFF#32)] []) (fun t => t.lo
    1#3 == 0x00000000#32 && nzcv t == 0b0110#4) = true := by decide
theorem test_subImm3_zero : gives 0x1FDA#16 (st 0x8000#32 0b0000#4 [(.lo 3#3, 0x7#32)] []) (fun t => t.lo 2#3 ==
    0x00000000#32 && nzcv t == 0b0110#4) = true := by decide
theorem test_movImm8_keeps_cv : gives 0x2000#16 (st 0x8000#32 0b0011#4 [(.lo 0#3, 0x1#32)] []) (fun t => t.lo 0#3 ==
    0x00000000#32 && nzcv t == 0b0111#4) = true := by decide
theorem test_cmpImm8_less : gives 0x28FF#16 (st 0x8000#32 0b0000#4 [] []) (fun t => t.lo 0#3 == 0x00000000#32 &&
    nzcv t == 0b1000#4) = true := by decide
theorem test_addImm8 : gives 0x3101#16 (st 0x8000#32 0b0000#4 [(.lo 1#3, 0x8018#32)] []) (fun t => t.lo 1#3 ==
    0x00008019#32 && nzcv t == 0b0000#4) = true := by decide
theorem test_subImm8_borrow : gives 0x3901#16 (st 0x8000#32 0b0000#4 [] []) (fun t => t.lo 1#3 == 0xFFFFFFFF#32 &&
    nzcv t == 0b1000#4) = true := by decide
theorem test_lslImm_carry : gives 0x0108#16 (st 0x8000#32 0b0000#4 [(.lo 1#3, 0xF0000001#32)] []) (fun t => t.lo 0#3
    == 0x00000010#32 && nzcv t == 0b0010#4) = true := by decide
theorem test_lslImm_zero_keeps_c : gives 0x0008#16 (st 0x8000#32 0b0010#4 [(.lo 1#3, 0x80000000#32)] []) (fun t =>
    t.lo 0#3 == 0x80000000#32 && nzcv t == 0b1010#4) = true := by decide
theorem test_lsrImm_32 : gives 0x0808#16 (st 0x8000#32 0b0000#4 [(.lo 1#3, 0x80000000#32)] []) (fun t => t.lo 0#3 ==
    0x00000000#32 && nzcv t == 0b0110#4) = true := by decide
theorem test_lsrImm_24 : gives 0x0E02#16 (st 0x8000#32 0b0000#4 [(.lo 0#3, 0x12345678#32)] []) (fun t => t.lo 2#3 ==
    0x00000012#32 && nzcv t == 0b0000#4) = true := by decide
theorem test_asrImm_1 : gives 0x1048#16 (st 0x8000#32 0b0000#4 [(.lo 1#3, 0x80000001#32)] []) (fun t => t.lo 0#3 ==
    0xC0000000#32 && nzcv t == 0b1010#4) = true := by decide
theorem test_asrImm_32 : gives 0x1008#16 (st 0x8000#32 0b0010#4 [(.lo 1#3, 0x7FFFFFFF#32)] []) (fun t => t.lo 0#3 ==
    0x00000000#32 && nzcv t == 0b0100#4) = true := by decide
theorem test_andReg : gives 0x4008#16 (st 0x8000#32 0b0000#4 [(.lo 0#3, 0xF0F0F0F#32), (.lo 1#3, 0xFF00FF00#32)] [])
    (fun t => t.lo 0#3 == 0x0F000F00#32 && nzcv t == 0b0000#4) = true := by decide
theorem test_eorReg : gives 0x4048#16 (st 0x8000#32 0b0000#4 [(.lo 0#3, 0xF0F0F0F#32), (.lo 1#3, 0xFFFFFFFF#32)] [])
    (fun t => t.lo 0#3 == 0xF0F0F0F0#32 && nzcv t == 0b1000#4) = true := by decide
theorem test_lslReg_32 : gives 0x4088#16 (st 0x8000#32 0b0000#4 [(.lo 0#3, 0x1#32), (.lo 1#3, 0x20#32)] []) (fun t
    => t.lo 0#3 == 0x00000000#32 && nzcv t == 0b0110#4) = true := by decide
theorem test_lslReg_low_byte : gives 0x4088#16 (st 0x8000#32 0b0010#4 [(.lo 0#3, 0x80000001#32), (.lo 1#3,
    0x100#32)] []) (fun t => t.lo 0#3 == 0x80000001#32 && nzcv t == 0b1010#4) = true := by decide
theorem test_lsrReg_31 : gives 0x40C8#16 (st 0x8000#32 0b0000#4 [(.lo 0#3, 0x80000000#32), (.lo 1#3, 0x1F#32)] [])
    (fun t => t.lo 0#3 == 0x00000001#32 && nzcv t == 0b0000#4) = true := by decide
theorem test_lsrReg_32 : gives 0x40C8#16 (st 0x8000#32 0b0000#4 [(.lo 0#3, 0x80000000#32), (.lo 1#3, 0x20#32)] [])
    (fun t => t.lo 0#3 == 0x00000000#32 && nzcv t == 0b0110#4) = true := by decide
theorem test_asrReg_255 : gives 0x4108#16 (st 0x8000#32 0b0000#4 [(.lo 0#3, 0x80000000#32), (.lo 1#3, 0xFF#32)] [])
    (fun t => t.lo 0#3 == 0xFFFFFFFF#32 && nzcv t == 0b1010#4) = true := by decide
theorem test_asrReg_31 : gives 0x4108#16 (st 0x8000#32 0b0000#4 [(.lo 0#3, 0x80000001#32), (.lo 1#3, 0x1F#32)] [])
    (fun t => t.lo 0#3 == 0xFFFFFFFF#32 && nzcv t == 0b1000#4) = true := by decide
theorem test_adc_carry_in : gives 0x4148#16 (st 0x8000#32 0b0010#4 [(.lo 0#3, 0xFFFFFFFF#32)] []) (fun t => t.lo 0#3
    == 0x00000000#32 && nzcv t == 0b0110#4) = true := by decide
theorem test_adc_overflow : gives 0x4148#16 (st 0x8000#32 0b0010#4 [(.lo 0#3, 0x7FFFFFFF#32)] []) (fun t => t.lo 0#3
    == 0x80000000#32 && nzcv t == 0b1001#4) = true := by decide
theorem test_sbc_borrow : gives 0x4188#16 (st 0x8000#32 0b0000#4 [(.lo 0#3, 0x5#32), (.lo 1#3, 0x5#32)] []) (fun t
    => t.lo 0#3 == 0xFFFFFFFF#32 && nzcv t == 0b1000#4) = true := by decide
theorem test_sbc_no_borrow : gives 0x4188#16 (st 0x8000#32 0b0010#4 [(.lo 0#3, 0x5#32), (.lo 1#3, 0x5#32)] []) (fun
    t => t.lo 0#3 == 0x00000000#32 && nzcv t == 0b0110#4) = true := by decide
theorem test_rorReg_4 : gives 0x41C8#16 (st 0x8000#32 0b0000#4 [(.lo 0#3, 0xF#32), (.lo 1#3, 0x4#32)] []) (fun t =>
    t.lo 0#3 == 0xF0000000#32 && nzcv t == 0b1010#4) = true := by decide
theorem test_rorReg_32 : gives 0x41C8#16 (st 0x8000#32 0b0000#4 [(.lo 0#3, 0x8000000F#32), (.lo 1#3, 0x120#32)] [])
    (fun t => t.lo 0#3 == 0x8000000F#32 && nzcv t == 0b1010#4) = true := by decide
theorem test_tst_keeps_cv : gives 0x4208#16 (st 0x8000#32 0b0011#4 [(.lo 0#3, 0x80000000#32), (.lo 1#3,
    0x80000000#32)] []) (fun t => t.lo 0#3 == 0x80000000#32 && nzcv t == 0b1011#4) = true := by decide
theorem test_neg_min : gives 0x4248#16 (st 0x8000#32 0b0000#4 [(.lo 1#3, 0x80000000#32)] []) (fun t => t.lo 0#3 ==
    0x80000000#32 && nzcv t == 0b1001#4) = true := by decide
theorem test_neg_zero : gives 0x4248#16 (st 0x8000#32 0b0000#4 [(.lo 0#3, 0x3#32)] []) (fun t => t.lo 0#3 ==
    0x00000000#32 && nzcv t == 0b0110#4) = true := by decide
theorem test_cmpReg_overflow : gives 0x4288#16 (st 0x8000#32 0b0000#4 [(.lo 0#3, 0x80000000#32), (.lo 1#3, 0x1#32)]
    []) (fun t => t.lo 0#3 == 0x80000000#32 && nzcv t == 0b0011#4) = true := by decide
theorem test_cmn : gives 0x42C8#16 (st 0x8000#32 0b0000#4 [(.lo 0#3, 0x1#32), (.lo 1#3, 0xFFFFFFFF#32)] []) (fun t
    => t.lo 0#3 == 0x00000001#32 && nzcv t == 0b0110#4) = true := by decide
theorem test_orr : gives 0x4308#16 (st 0x8000#32 0b0000#4 [(.lo 0#3, 0xFF00FF00#32), (.lo 1#3, 0xF000F0#32)] [])
    (fun t => t.lo 0#3 == 0xFFF0FFF0#32 && nzcv t == 0b1000#4) = true := by decide
theorem test_mul_keeps_cv : gives 0x4348#16 (st 0x8000#32 0b0011#4 [(.lo 0#3, 0xFFFFFFFF#32), (.lo 1#3,
    0xFFFFFFFF#32)] []) (fun t => t.lo 0#3 == 0x00000001#32 && nzcv t == 0b0011#4) = true := by decide
theorem test_mul_same_reg : refuses 0x4340#16 (st 0x8000#32 0b0000#4 [] []) .mulSameReg = true := by decide
theorem test_bic : gives 0x4388#16 (st 0x8000#32 0b0000#4 [(.lo 0#3, 0xFF00FF00#32), (.lo 1#3, 0xF000F00#32)] [])
    (fun t => t.lo 0#3 == 0xF000F000#32 && nzcv t == 0b1000#4) = true := by decide
theorem test_mvn : gives 0x43C8#16 (st 0x8000#32 0b0000#4 [] []) (fun t => t.lo 0#3 == 0xFFFFFFFF#32 && nzcv t ==
    0b1000#4) = true := by decide
theorem test_addHi_no_flags : gives 0x4440#16 (st 0x8000#32 0b0011#4 [(.lo 0#3, 0x1#32), (.mid 0, 0xFFFFFFFF#32)]
    []) (fun t => t.lo 0#3 == 0x00000000#32 && nzcv t == 0b0011#4) = true := by decide
theorem test_addHi_pc : gives 0x4487#16 (st 0x8000#32 0b0000#4 [(.lo 0#3, 0x10#32)] []) (fun t => t.pc == 0x8014#32
    && t.cpsr.t) = true := by decide
theorem test_cmpHi : gives 0x45C8#16 (st 0x8000#32 0b0000#4 [(.mid 0, 0x7FFFFFFF#32), (.mid 1, 0xFFFFFFFF#32)] [])
    (fun t => nzcv t == 0b1001#4) = true := by decide
theorem test_movHi_from_pc : gives 0x4678#16 (st 0x8002#32 0b0000#4 [] []) (fun t => t.lo 0#3 == 0x00008006#32) =
    true := by decide
theorem test_movHi_to_pc : gives 0x46F7#16 (st 0x8000#32 0b0000#4 [(.lr .usr, 0x8005#32)] []) (fun t => t.pc ==
    0x8004#32 && t.cpsr.t && t.ended == none) = true := by decide
theorem test_addPc_aligns : gives 0xA103#16 (st 0x800A#32 0b0000#4 [] []) (fun t => t.lo 1#3 == 0x00008018#32) =
    true := by decide
theorem test_addRdSp : gives 0xAFFF#16 (st 0x8000#32 0b0000#4 [(.sp .usr, 0x10000#32)] []) (fun t => t.lo 7#3 ==
    0x000103FC#32) = true := by decide
theorem test_addSp : gives 0xB07F#16 (st 0x8000#32 0b0000#4 [(.sp .usr, 0x10000#32)] []) (fun t => t.sp ==
    0x101FC#32) = true := by decide
theorem test_subSp : gives 0xB082#16 (st 0x8000#32 0b0000#4 [(.sp .usr, 0x10000#32)] []) (fun t => t.sp ==
    0xFFF8#32) = true := by decide

/-! Branches (section 2.1, S3, S4, S8). The condition table of 30_encoding.md R95, row by row over NZCV 0000 to
    1111. -/

theorem test_beq_taken_by_flags : ∀ f : BitVec 4,
    gives 0xD07F#16 (st 0x8000#32 f [] []) (fun t => t.pc ==
      if (0b1111000011110000#16).getLsbD f.toNat then 0x8102#32 else 0x8002#32) = true := by decide
theorem test_bne_taken_by_flags : ∀ f : BitVec 4,
    gives 0xD17F#16 (st 0x8000#32 f [] []) (fun t => t.pc ==
      if (0b0000111100001111#16).getLsbD f.toNat then 0x8102#32 else 0x8002#32) = true := by decide
theorem test_bcs_taken_by_flags : ∀ f : BitVec 4,
    gives 0xD27F#16 (st 0x8000#32 f [] []) (fun t => t.pc ==
      if (0b1100110011001100#16).getLsbD f.toNat then 0x8102#32 else 0x8002#32) = true := by decide
theorem test_bcc_taken_by_flags : ∀ f : BitVec 4,
    gives 0xD37F#16 (st 0x8000#32 f [] []) (fun t => t.pc ==
      if (0b0011001100110011#16).getLsbD f.toNat then 0x8102#32 else 0x8002#32) = true := by decide
theorem test_bmi_taken_by_flags : ∀ f : BitVec 4,
    gives 0xD47F#16 (st 0x8000#32 f [] []) (fun t => t.pc ==
      if (0b1111111100000000#16).getLsbD f.toNat then 0x8102#32 else 0x8002#32) = true := by decide
theorem test_bpl_taken_by_flags : ∀ f : BitVec 4,
    gives 0xD57F#16 (st 0x8000#32 f [] []) (fun t => t.pc ==
      if (0b0000000011111111#16).getLsbD f.toNat then 0x8102#32 else 0x8002#32) = true := by decide
theorem test_bvs_taken_by_flags : ∀ f : BitVec 4,
    gives 0xD67F#16 (st 0x8000#32 f [] []) (fun t => t.pc ==
      if (0b1010101010101010#16).getLsbD f.toNat then 0x8102#32 else 0x8002#32) = true := by decide
theorem test_bvc_taken_by_flags : ∀ f : BitVec 4,
    gives 0xD77F#16 (st 0x8000#32 f [] []) (fun t => t.pc ==
      if (0b0101010101010101#16).getLsbD f.toNat then 0x8102#32 else 0x8002#32) = true := by decide
theorem test_bhi_taken_by_flags : ∀ f : BitVec 4,
    gives 0xD87F#16 (st 0x8000#32 f [] []) (fun t => t.pc ==
      if (0b0000110000001100#16).getLsbD f.toNat then 0x8102#32 else 0x8002#32) = true := by decide
theorem test_bls_taken_by_flags : ∀ f : BitVec 4,
    gives 0xD97F#16 (st 0x8000#32 f [] []) (fun t => t.pc ==
      if (0b1111001111110011#16).getLsbD f.toNat then 0x8102#32 else 0x8002#32) = true := by decide
theorem test_bge_taken_by_flags : ∀ f : BitVec 4,
    gives 0xDA7F#16 (st 0x8000#32 f [] []) (fun t => t.pc ==
      if (0b1010101001010101#16).getLsbD f.toNat then 0x8102#32 else 0x8002#32) = true := by decide
theorem test_blt_taken_by_flags : ∀ f : BitVec 4,
    gives 0xDB7F#16 (st 0x8000#32 f [] []) (fun t => t.pc ==
      if (0b0101010110101010#16).getLsbD f.toNat then 0x8102#32 else 0x8002#32) = true := by decide
theorem test_bgt_taken_by_flags : ∀ f : BitVec 4,
    gives 0xDC7F#16 (st 0x8000#32 f [] []) (fun t => t.pc ==
      if (0b0000101000000101#16).getLsbD f.toNat then 0x8102#32 else 0x8002#32) = true := by decide
theorem test_ble_taken_by_flags : ∀ f : BitVec 4,
    gives 0xDD7F#16 (st 0x8000#32 f [] []) (fun t => t.pc ==
      if (0b1111010111111010#16).getLsbD f.toNat then 0x8102#32 else 0x8002#32) = true := by decide
theorem test_beq_backward : gives 0xD080#16 (st 0x8000#32 0b0100#4 [] []) (fun t => t.pc == 0x7F04#32) = true := by
    decide
theorem test_b_backward : gives 0xE7F9#16 (st 0x8014#32 0b0000#4 [] []) (fun t => t.pc == 0x800A#32) = true := by
    decide
theorem test_b_forward_max : gives 0xE3FF#16 (st 0x8000#32 0b0000#4 [] []) (fun t => t.pc == 0x8802#32) = true := by
    decide
theorem test_blFirst_negative : gives 0xF7FF#16 (st 0x8100#32 0b0000#4 [] []) (fun t => t.lr == 0x7104#32 && t.pc ==
    0x8102#32) = true := by decide
theorem test_blSecond : gives 0xFF7E#16 (st 0x8102#32 0b0000#4 [(.lr .usr, 0x7104#32)] []) (fun t => t.lr ==
    0x8105#32 && t.pc == 0x8000#32 && t.cpsr.t) = true := by decide
theorem test_blxLabel_mask : gives 0xE87E#16 (st 0x8004#32 0b0000#4 [(.lr .usr, 0x8006#32)] []) (fun t => t.lr ==
    0x8007#32 && t.pc == 0x8100#32 && !t.cpsr.t && t.ended == some (.leftThumb .blx)) = true := by decide
theorem test_blxLabel_v4T : gives 0xE800#16 (v4T (st 0x8000#32 0b0000#4 [] [])) (fun t => t.regs.get (.lr .und) ==
    0x8002#32 && t.pc == 4#32) = true := by decide
theorem test_bx_pc_arm : gives 0x4778#16 (st 0x8000#32 0b0000#4 [] []) (fun t => t.pc == 0x8004#32 && !t.cpsr.t &&
    t.ended == some (.leftThumb .bx)) = true := by decide
theorem test_bx_unaligned : refuses 0x4778#16 (st 0x8002#32 0b0000#4 [] []) (.armTargetUnaligned 0x8006#32) = true
    := by decide
theorem test_blxReg_old_lr : gives 0x47F0#16 (st 0x8000#32 0b0000#4 [(.lr .usr, 0x9001#32)] []) (fun t => t.lr ==
    0x8003#32 && t.pc == 0x9000#32) = true := by decide
theorem test_blxReg_pc : refuses 0x47F8#16 (st 0x8000#32 0b0000#4 [] []) .blxPc = true := by decide

/-! SWI and the undefined space (sections 2.2 and 2.6). -/

theorem test_swi_entry : gives 0xDF11#16 (st 0x801E#32 0b0110#4 [] []) (fun t => t.regs.get (.lr .svc) == 0x8020#32
    && t.spsr.svc.toWord == 0x60000030#32 && t.cpsr.toWord == 0x60000093#32 && t.pc == 8#32) = true := by decide
theorem test_swi_semihost : gives 0xDF00#16 (semihosted (st 0x8012#32 0b0000#4 [(.lo 0#3, 0x48#32)] [])) (fun t =>
    t.output == [0x48#8] && t.pc == 0x8014#32 && t.cpsr.t) = true := by decide
theorem test_undB1_entry : gives 0xB100#16 (st 0x8000#32 0b0000#4 [] []) (fun t => t.regs.get (.lr .und) ==
    0x8002#32 && t.spsr.und.toWord == 0x30#32 && t.cpsr.toWord == 0x9B#32 && t.pc == 4#32) = true := by decide
theorem test_undB2_vector : gives 0xB3FF#16 (st 0x8000#32 0b0000#4 [] []) (fun t => t.pc == 4#32 && t.ended == some
    (.leftThumb (.exception .undefinedInstruction))) = true := by decide
theorem test_undB6_vector : gives 0xB600#16 (st 0x8000#32 0b0000#4 [] []) (fun t => t.pc == 4#32 && t.ended == some
    (.leftThumb (.exception .undefinedInstruction))) = true := by decide
theorem test_undB8_vector : gives 0xBBFF#16 (st 0x8000#32 0b0000#4 [] []) (fun t => t.pc == 4#32 && t.ended == some
    (.leftThumb (.exception .undefinedInstruction))) = true := by decide
theorem test_undBF_vector : gives 0xBF00#16 (st 0x8000#32 0b0000#4 [] []) (fun t => t.pc == 4#32 && t.ended == some
    (.leftThumb (.exception .undefinedInstruction))) = true := by decide
theorem test_undDE_vector : gives 0xDE00#16 (st 0x8000#32 0b0000#4 [] []) (fun t => t.pc == 4#32 && t.ended == some
    (.leftThumb (.exception .undefinedInstruction))) = true := by decide
theorem test_undE8_vector : gives 0xEFFF#16 (st 0x8000#32 0b0000#4 [] []) (fun t => t.pc == 4#32 && t.ended == some
    (.leftThumb (.exception .undefinedInstruction))) = true := by decide
theorem test_refuseU9 : refuses 0xBE00#16 (st 0x8000#32 0b0000#4 [] []) .section78Space = true := by decide

/-! Single transfers (section 2.4). -/

theorem test_strImm : gives 0x6048#16 (st 0x8000#32 0b0000#4 [(.lo 0#3, 0x11223344#32), (.lo 1#3, 0x9000#32)] [])
    (fun t => readByte t.mem 0x9004 == 0x44#8 && readByte t.mem 0x9005 == 0x33#8 && readByte t.mem 0x9006 == 0x22#8
    && readByte t.mem 0x9007 == 0x11#8) = true := by decide
theorem test_ldrImm_misaligned : gives 0x6808#16 (st 0x8000#32 0b0000#4 [(.lo 1#3, 0x9002#32)] []) (fun t =>
    t.regs.get (.lr .abt) == 0x8008#32 && t.pc == 0x10#32 && t.cpsr.toWord == 0x97#32 && t.ended == some (.leftThumb
    (.exception (.dataAbort 0x9002#32)))) = true := by decide
theorem test_ldrImm_big_endian : gives 0x6848#16 (bigEndian (st 0x8000#32 0b0000#4 [(.lo 1#3, 0x9000#32)] [(0x9004,
    0x44#8), (0x9005, 0x33#8), (0x9006, 0x22#8), (0x9007, 0x11#8)])) (fun t => t.lo 0#3 == 0x44332211#32) = true :=
    by decide
theorem test_strbImm : gives 0x7048#16 (st 0x8000#32 0b0000#4 [(.lo 0#3, 0x11223344#32), (.lo 1#3, 0x9000#32)] [])
    (fun t => readByte t.mem 0x9000 == 0x00#8 && readByte t.mem 0x9001 == 0x44#8 && readByte t.mem 0x9002 == 0x00#8)
    = true := by decide
theorem test_ldrbImm : gives 0x7808#16 (st 0x8000#32 0b0000#4 [(.lo 1#3, 0x8018#32)] [(0x8018, 0x48#8)]) (fun t =>
    t.lo 0#3 == 0x00000048#32) = true := by decide
theorem test_strhImm : gives 0x8048#16 (st 0x8000#32 0b0000#4 [(.lo 0#3, 0x11223344#32), (.lo 1#3, 0x9000#32)] [])
    (fun t => readByte t.mem 0x9002 == 0x44#8 && readByte t.mem 0x9003 == 0x33#8 && readByte t.mem 0x9004 == 0x00#8)
    = true := by decide
theorem test_ldrhImm : gives 0x8848#16 (st 0x8000#32 0b0000#4 [(.lo 1#3, 0x9000#32)] [(0x9002, 0x44#8), (0x9003,
    0xF3#8)]) (fun t => t.lo 0#3 == 0x0000F344#32) = true := by decide
theorem test_strReg : gives 0x5088#16 (st 0x8000#32 0b0000#4 [(.lo 0#3, 0xAABBCCDD#32), (.lo 1#3, 0x9000#32), (.lo
    2#3, 0x4#32)] []) (fun t => readByte t.mem 0x9004 == 0xDD#8 && readByte t.mem 0x9005 == 0xCC#8 && readByte t.mem
    0x9006 == 0xBB#8 && readByte t.mem 0x9007 == 0xAA#8) = true := by decide
theorem test_strhReg_negative : gives 0x5288#16 (st 0x8000#32 0b0000#4 [(.lo 0#3, 0xAABBCCDD#32), (.lo 1#3,
    0x9000#32), (.lo 2#3, 0xFFFFFFFE#32)] []) (fun t => readByte t.mem 0x8FFE == 0xDD#8 && readByte t.mem 0x8FFF ==
    0xCC#8 && readByte t.mem 0x9000 == 0x00#8) = true := by decide
theorem test_strbReg : gives 0x5488#16 (st 0x8000#32 0b0000#4 [(.lo 0#3, 0xAABBCCDD#32), (.lo 1#3, 0x9000#32), (.lo
    2#3, 0x4#32)] []) (fun t => readByte t.mem 0x9004 == 0xDD#8 && readByte t.mem 0x9005 == 0x00#8) = true := by
    decide
theorem test_ldrsbReg : gives 0x5688#16 (st 0x8000#32 0b0000#4 [(.lo 1#3, 0x9000#32), (.lo 2#3, 0x4#32)] [(0x9004,
    0x80#8)]) (fun t => t.lo 0#3 == 0xFFFFFF80#32) = true := by decide
theorem test_ldrReg : gives 0x5888#16 (st 0x8000#32 0b0000#4 [(.lo 1#3, 0x9000#32), (.lo 2#3, 0x4#32)] [(0x9004,
    0xDD#8), (0x9005, 0xCC#8), (0x9006, 0xBB#8), (0x9007, 0xAA#8)]) (fun t => t.lo 0#3 == 0xAABBCCDD#32) = true :=
    by decide
theorem test_ldrhReg : gives 0x5A88#16 (st 0x8000#32 0b0000#4 [(.lo 1#3, 0x9000#32), (.lo 2#3, 0x4#32)] [(0x9005,
    0x80#8)]) (fun t => t.lo 0#3 == 0x00008000#32) = true := by decide
theorem test_ldrbReg : gives 0x5C88#16 (st 0x8000#32 0b0000#4 [(.lo 1#3, 0x9000#32), (.lo 2#3, 0x4#32)] [(0x9004,
    0x80#8)]) (fun t => t.lo 0#3 == 0x00000080#32) = true := by decide
theorem test_ldrshReg : gives 0x5E88#16 (st 0x8000#32 0b0000#4 [(.lo 1#3, 0x9000#32), (.lo 2#3, 0x4#32)] [(0x9005,
    0x80#8)]) (fun t => t.lo 0#3 == 0xFFFF8000#32) = true := by decide
theorem test_ldrPc : gives 0x4801#16 (st 0x8002#32 0b0000#4 [] [(0x8008, 0x78#8), (0x8009, 0x56#8), (0x800A,
    0x34#8), (0x800B, 0x12#8)]) (fun t => t.lo 0#3 == 0x12345678#32) = true := by decide
theorem test_strSp : gives 0x9001#16 (st 0x8000#32 0b0000#4 [(.sp .usr, 0xFFF0#32), (.lo 0#3, 0x7#32)] []) (fun t =>
    readByte t.mem 0xFFF4 == 0x07#8 && readByte t.mem 0xFFF5 == 0x00#8 && readByte t.mem 0xFFF6 == 0x00#8 &&
    readByte t.mem 0xFFF7 == 0x00#8) = true := by decide
theorem test_ldrSp : gives 0x9801#16 (st 0x8000#32 0b0000#4 [(.sp .usr, 0xFFF0#32)] [(0xFFF4, 0x07#8)]) (fun t =>
    t.lo 0#3 == 0x00000007#32) = true := by decide

/-! Multiple transfers (section 2.5). -/

theorem test_stmia : gives 0xC006#16 (st 0x8000#32 0b0000#4 [(.lo 0#3, 0x9000#32), (.lo 1#3, 0x11111111#32), (.lo
    2#3, 0x22222222#32)] []) (fun t => readByte t.mem 0x9000 == 0x11#8 && readByte t.mem 0x9001 == 0x11#8 &&
    readByte t.mem 0x9002 == 0x11#8 && readByte t.mem 0x9003 == 0x11#8 && readByte t.mem 0x9004 == 0x22#8 &&
    readByte t.mem 0x9005 == 0x22#8 && readByte t.mem 0x9006 == 0x22#8 && readByte t.mem 0x9007 == 0x22#8 && t.lo
    0#3 == 0x00009008#32) = true := by decide
theorem test_stmia_base : refuses 0xC003#16 (st 0x8000#32 0b0000#4 [] []) .baseInList = true := by decide
theorem test_ldmia : gives 0xC806#16 (st 0x8000#32 0b0000#4 [(.lo 0#3, 0x9000#32)] [(0x9000, 0x11#8), (0x9001,
    0x11#8), (0x9002, 0x11#8), (0x9003, 0x11#8), (0x9004, 0x22#8), (0x9005, 0x22#8), (0x9006, 0x22#8), (0x9007,
    0x22#8)]) (fun t => t.lo 1#3 == 0x11111111#32 && t.lo 2#3 == 0x22222222#32 && t.lo 0#3 == 0x00009008#32) = true
    := by decide
theorem test_push : gives 0xB510#16 (st 0x8000#32 0b0000#4 [(.sp .usr, 0x10000#32), (.lo 4#3, 0x44444444#32), (.lr
    .usr, 0x8005#32)] []) (fun t => readByte t.mem 0xFFF8 == 0x44#8 && readByte t.mem 0xFFF9 == 0x44#8 && readByte
    t.mem 0xFFFA == 0x44#8 && readByte t.mem 0xFFFB == 0x44#8 && readByte t.mem 0xFFFC == 0x05#8 && readByte t.mem
    0xFFFD == 0x80#8 && readByte t.mem 0xFFFE == 0x00#8 && readByte t.mem 0xFFFF == 0x00#8 && t.sp == 0xFFF8#32) =
    true := by decide
theorem test_push_empty : refuses 0xB400#16 (st 0x8000#32 0b0000#4 [] []) .emptyList = true := by decide
theorem test_pop_pc_arm : gives 0xBD10#16 (st 0x8000#32 0b0000#4 [(.sp .usr, 0xFFF8#32)] [(0xFFF8, 0x44#8), (0xFFF9,
    0x44#8), (0xFFFA, 0x44#8), (0xFFFB, 0x44#8), (0xFFFD, 0x90#8)]) (fun t => t.lo 4#3 == 0x44444444#32 && t.sp ==
    0x10000#32 && t.pc == 0x9000#32 && !t.cpsr.t && t.ended == some (.leftThumb .pop)) = true := by decide
theorem test_pop_pc_v4T : gives 0xBD00#16 (v4T (st 0x8000#32 0b0000#4 [(.sp .usr, 0xFFFC#32)] [(0xFFFC, 0x02#8),
    (0xFFFD, 0x90#8)])) (fun t => t.sp == 0x10000#32 && t.pc == 0x9002#32 && t.cpsr.t) = true := by decide
theorem test_ldmia_abort : gives 0xC806#16 (mapped (st 0x8000#32 0b0000#4 [(.lo 0#3, 0xFFFC#32)] [(0xFFFC,
    0x01#8)])) (fun t => t.lo 0#3 == 0x0000FFFC#32 && t.lo 1#3 == 0x00000000#32 && t.ended == some (.leftThumb
    (.exception (.dataAbort 0x10000#32)))) = true := by decide

/-! Steps: fetch, events, ends of a run (section 2.6, 00_scope.md R7, R14, R28). -/

theorem test_step_executes : steps (mapped (st 0x8004#32 0#4 [] [(0x8005, 0x20#8)])) (fun t => t.lo 0#3 ==
    0x00000000#32 && t.cpsr.z && t.pc == 0x8006#32 && t.stepNo == 1) = true := by decide
theorem test_prefetch_abort : steps (mapped (st 0xA000#32 0#4 [] [])) (fun t => t.regs.get (.lr .abt) == 0xA004#32
    && t.cpsr.toWord == 0x97#32 && t.pc == 0xC#32) = true := by decide
theorem test_irq_entry : steps (scheduled ⟨[0], [], []⟩ (mapped (st 0x8004#32 0#4 [] [(0x8005, 0x20#8)]))) (fun t =>
    t.regs.get (.lr .irq) == 0x8008#32 && t.spsr.irq.toWord == 0x30#32 && t.cpsr.toWord == 0x92#32 && t.pc ==
    0x18#32) = true := by decide
theorem test_fiq_before_irq : steps (scheduled ⟨[0], [0], []⟩ (mapped (st 0x8004#32 0#4 [] [(0x8005, 0x20#8)])))
    (fun t => t.regs.get (.lr .fiq) == 0x8008#32 && t.cpsr.toWord == 0xD1#32 && t.pc == 0x1C#32) = true := by decide
theorem test_irq_masked : steps (scheduled ⟨[0], [], []⟩ (masked (mapped (st 0x8004#32 0#4 [] [(0x8005, 0x20#8)]))))
    (fun t => t.pc == 0x8006#32) = true := by decide
theorem test_reset_first : steps (scheduled ⟨[0], [0], [0]⟩ (mapped (st 0x8004#32 0#4 [] [(0x8005, 0x20#8)]))) (fun
    t => t.pc == 0#32 && t.cpsr.m == .supervisor && t.cpsr.i && t.cpsr.f && !t.cpsr.t && t.ended == some (.leftThumb
    (.exception .reset))) = true := by decide
theorem test_reset_is_arm_state : (match step State.reset with | .fault f => f == .armState | _ => false) = true :=
    by decide
theorem test_sequential_wrap : refuses 0x2000#16 (st 0xFFFFFFFE#32 0b0000#4 [] []) .sequentialWrap = true := by decide
theorem test_withFetchWord_from_reset : steps (State.reset.withFetchWord 16 0x2007) (fun t => t.lo 0#3 ==
    0x00000007#32 && t.pc == 2#32) = true := by decide
theorem test_launch_refuses_overlap : launch (⟨0x8000#32, .user, false, false, false, false, false, false, .zero,
    [], ⟨.v5T, .little, .fault, .architectural, .refuse, ⟨[], [⟨0, 2⟩], [⟨1, 4⟩]⟩⟩, ⟨[], [], []⟩⟩) = .error
    .selfModifyingCode := by decide

/-! Witnesses: for each statement of Certificates/Slice0/Obligations.lean that has hypotheses, a state and operands that
meet all of them together, at a boundary value for each clause. -/

/-- A running state at 0x8004 whose next halfword is `MOV r0, #0`, admitted for fetch. -/
def ready : State := mapped (st 0x8004#32 0#4 [] [(0x8005, 0x20#8)])

/-- A running state at the last halfword but one, with all of memory admitted for data. -/
def high : State := st 0xFFFFFFFC#32 0#4 [] []

/-- A running state with the given Lo registers' and SP's values. -/
def with2 (r0 r1 sp : Word) : State := st 0xFFFFFFFC#32 0#4 [(.lo 0#3, r0), (.lo 1#3, r1), (.sp .usr, sp)] []

/-- A launch at an entry with the given admission. -/
def launchAt (entry : Word) (mm : MemMap) : Launch :=
  { entry := entry, contents := [(0x8005, 1#8), (0x8005, 0x20#8), (0xFFFFFFFF, 7#8)]
    params := ⟨.v5T, .little, .fault, .architectural, .refuse, mm⟩ }

theorem witness_StepRunsDecodedInstruction :
    let s := masked (scheduled ⟨[0], [0], [1]⟩ ready)
    Running s ∧ s.stepNo ∉ s.events.resetAt ∧ (s.stepNo ∈ s.events.fiqAt → s.cpsr.f = true) ∧
      (s.stepNo ∈ s.events.irqAt → s.cpsr.i = true) ∧ admitsByte s.params.mem .fetch s.pc.toNat = true ∧
      admitsByte s.params.mem .fetch (s.pc + 1#32).toNat = true ∧
      decode s.params.endian [readByte s.mem s.pc.toNat, readByte s.mem (s.pc + 1#32).toNat] =
        .ok (.movImm8 0#3 0#8, []) := by decide

theorem witness_StepRunsPlacedWord : State.reset.mem.wf = true ∧ ready.mem.wf = true := by decide

theorem witness_priority_reset :
    let s := scheduled ⟨[0], [0], [0]⟩ ready
    Running s ∧ s.stepNo ∈ s.events.resetAt := by decide

theorem witness_priority_fiq :
    let s := scheduled ⟨[0], [0], [1]⟩ ready
    Running s ∧ s.stepNo ∉ s.events.resetAt ∧ s.stepNo ∈ s.events.fiqAt ∧ s.cpsr.f = false := by decide

theorem witness_priority_irq :
    let s := scheduled ⟨[0], [1], []⟩ ready
    Running s ∧ s.stepNo ∉ s.events.resetAt ∧ (s.stepNo ∉ s.events.fiqAt ∨ s.cpsr.f = true) ∧
      s.stepNo ∈ s.events.irqAt ∧ s.cpsr.i = false := by decide

/-- The fetchable set ends at 0x8FFF: the second byte of a halfword at 0x8FFF would not be admitted; 0x9000 is not. -/
theorem witness_priority_prefetch :
    let s := mapped (st 0x9000#32 0#4 [] [])
    Running s ∧ s.stepNo ∉ s.events.resetAt ∧ (s.stepNo ∉ s.events.fiqAt ∨ s.cpsr.f = true) ∧
      (s.stepNo ∉ s.events.irqAt ∨ s.cpsr.i = true) ∧ admitsByte s.params.mem .fetch s.pc.toNat = false := by decide

theorem witness_StepStopsOutsideThumb :
    ({ ready with ended := some (.leftThumb .bx) } : State).ended = some (.leftThumb .bx) ∧
      ({ ready with ended := some .exited } : State).ended = some .exited ∧
      (State.reset.ended = none ∧ State.reset.cpsr.t = false) ∧ Running ready := by decide

theorem witness_launch_odd : (launchAt 0x8001#32 smallMap).entry.getLsbD 0 = true := by decide

theorem witness_launch_overlap :
    let l := launchAt 0x8000#32 ⟨[], [⟨0, 0x8001⟩], [⟨0x8000, 2⟩]⟩
    l.entry.getLsbD 0 = false ∧ inRegions l.params.mem.writable 0x8000 = true ∧
      inRegions l.params.mem.fetchable 0x8000 = true := by decide

/-- A launch that is not refused, whose contents give one byte twice and end at the last address. -/
theorem witness_launch_runs :
    let l := launchAt 0x8004#32 smallMap
    (match launch l with
      | .ok s => inRegions s.params.mem.writable 0x9000
      | .error _ => false) = true ∧
    (l.contents = [(0x8005, 1#8)] ++ (0x8005, 0x20#8) :: [(0xFFFFFFFF, 7#8)] ∧
      0x8005 ∉ [(0xFFFFFFFF, 7#8)].map (Prod.fst (α := Nat) (β := Byte))) ∧
    l.contents = [(0x8005, 1#8), (0x8005, 0x20#8)] ++ (0xFFFFFFFF, 7#8) :: [] ∧ 0x8004 ∉ l.contents.map Prod.fst := by
  decide

/-- An even entry, and no byte in both sets: the writable set begins where the fetchable one ends. -/
theorem witness_launch_allowed :
    let l := launchAt 0x8004#32 smallMap
    l.entry.getLsbD 0 = false ∧
      ∀ a, inRegions l.params.mem.writable a = true → inRegions l.params.mem.fetchable a = false := by
  refine ⟨rfl, fun a h => ?_⟩
  simp only [launchAt, smallMap, inRegions, inRegion, List.any_cons, List.any_nil, Bool.or_false, Bool.and_eq_true,
    decide_eq_true_eq, Bool.and_eq_false_iff, decide_eq_false_iff_not] at h ⊢
  omega

theorem witness_StepKeepsInvariant : Inv ready ∧ steps ready (fun _ => true) = true := by decide

theorem witness_StepKeepsParameters : steps ready (fun _ => true) = true := by decide

/-- A `STRB r0, [r1]` step, with a byte just below the writable set and the instruction's own byte. -/
theorem witness_StepNeverWritesUnadmittedBytes :
    let s := mapped (st 0x8000#32 0#4 [(.lo 1#3, 0x9000#32)] [(0x8000, 0x08#8), (0x8001, 0x70#8)])
    s.mem.wf = true ∧ steps s (fun _ => true) = true ∧ admitsByte s.params.mem .write 0x8FFF = false ∧
      admitsByte s.params.mem .fetch 0x8000 = true := by decide

/-- `BX r0` to an even address, and `MOV r0, #0`: one step that leaves Thumb state and one that does not. -/
theorem witness_ThumbStateLeftOnlyByEndStates :
    steps (mapped (st 0x8000#32 0#4 [] [(0x8001, 0x47#8)])) (fun t => !t.cpsr.t) = true ∧
      steps ready (fun t => t.cpsr.t) = true := by decide

theorem witness_OnlyExceptionsChangeModeAndBanks :
    steps ready (fun t => t.ended == none) = true ∧
      (∀ i : Reg, physOf ready.cpsr.m i ≠ some (.sp .svc)) := by decide

theorem witness_ExceptionEntryAsSpecified :
    (Exc.irq, 0x18#32, Mode.irq, Bank.irq, high.pc + 4#32, high.cpsr.f) =
        (.irq, 0x18#32, .irq, .irq, high.pc + 4#32, high.cpsr.f) ∧
      (∃ a, (Exc.dataAbort 5#32, 0x10#32, Mode.abort, Bank.abt, high.pc + 8#32, high.cpsr.f) =
        (.dataAbort a, 0x10#32, .abort, .abt, high.pc + 8#32, high.cpsr.f)) ∧ Bank.usr ≠ Bank.abt :=
  ⟨rfl, ⟨5#32, rfl⟩, by decide⟩

theorem witness_ReturnUndoesExceptionEntry : Exc.fiq ≠ .reset ∧ Running high := by decide

theorem witness_undefined_pattern : ∃ x, Instr.undE8 0x3FF#10 = .undE8 x := ⟨_, rfl⟩

theorem witness_undefined_v4T : (∃ x, Instr.blxLabel 0#10 = .blxLabel x) ∧ (v4T high).params.arch = .v4T :=
  ⟨⟨_, rfl⟩, rfl⟩

theorem witness_SoftwareInterruptEntry : high.params.swiEnv = .architectural := by decide

theorem witness_SemihostCalls :
    (semihosted high).params.swiEnv = .semihost ∧ NotTop (semihosted high) ∧ (0x12#8 ≠ 0x00#8 ∧ 0x12#8 ≠ 0x11#8) := by
  decide

theorem witness_restrictions_fields :
    ((7#4 : Reg).toNat < 8 ∧ (0#4 : Reg).toNat < 8) ∧ 4#3 ≠ 0#3 ∧ high.params.arch = .v5T ∧
      (v4T high).params.arch = .v4T ∧ high.params.mulSameReg = .refuse ∧ (0x80#8).getLsbD (7#3).toNat = true := by decide

theorem witness_restrictions_target :
    let s := with2 0x9002#32 0#32 0#32
    (s.reg 0#4).getLsbD 0 = false ∧ (s.reg 0#4).getLsbD 1 = true ∧ s.params.arch = .v5T ∧ 0#4 ≠ 15#4 := by decide

theorem witness_restrictions_cmp : (8 ≤ (8#4 : Reg).toNat ∨ 8 ≤ (15#4 : Reg).toNat) ∧ (8#4 = 15#4 ∨ 15#4 = 15#4) := by
  decide

theorem witness_wrap_registers :
    let s := st 0xFFFFFFFE#32 0#4 [] []
    s.pc = 0xFFFFFFFE#32 ∧ registerOnly (.blFirst 0#11) = true ∧ 0#3 ≠ 7#3 ∧
      ((8 ≤ (0#4 : Reg).toNat ∨ 8 ≤ (15#4 : Reg).toNat) ∧ 0#4 ≠ 15#4) ∧
      ((8 ≤ (14#4 : Reg).toNat ∨ 8 ≤ (0#4 : Reg).toNat) ∧ 14#4 ≠ 15#4 ∧ 0#4 ≠ 15#4) ∧
      ((.bhi 1#8, .hi) ∈ conditionalBranches 1#8 ∧ conditionPassed .hi s.cpsr = false) ∧
      (semihosted s).params.swiEnv = .semihost ∧ (semihosted s).pc = 0xFFFFFFFE#32 := by decide

/-- Transfers at the last word, two of them wrapping to address 0. -/
theorem witness_wrap_transfers :
    let s := st 0xFFFFFFFE#32 0#4 [(.lo 0#3, 0xFFFFFFFC#32), (.sp .usr, 0xFFFFFFFC#32)] []
    let p := st 0xFFFFFFFE#32 0#4 [(.sp .usr, 4#32)] []
    (s.pc = 0xFFFFFFFE#32 ∧ p.pc = 0xFFFFFFFE#32) ∧
      (accessOf (.strImm 1#3 0#3 0#5) s = some (.write, 0xFFFFFFFC#32, 4) ∧ Accessible s .write 0xFFFFFFFC#32 4) ∧
      (0b110#8 ≠ 0#8 ∧ (0b110#8).getLsbD (0#3).toNat = false ∧
        (∀ j < rank 0b110#8 8, Accessible s .write (wordAt (s.lo 0#3) j) 4) ∧
        (∀ j < rank 0b110#8 8, Accessible s .read (wordAt (s.lo 0#3) j) 4)) ∧
      (2 = rank 0x80#8 8 + true.toNat ∧ 2 ≠ 0 ∧
        (∀ j < 2, Accessible p .write (wordAt (p.sp - BitVec.ofNat 32 (4 * 2)) j) 4)) ∧
      (∀ j < rank 0b11#8 8, Accessible s .read (wordAt s.sp j) 4) := by decide

theorem witness_AddSubtractThreeOperands : NotTop high := by decide
theorem witness_ImmediateEightBit : NotTop high := by decide
theorem witness_ShiftsByImmediate : NotTop high := by decide
theorem witness_BitwiseOperations : NotTop high := by decide
theorem witness_CarryArithmetic : NotTop high := by decide
theorem witness_NegateAndCompare : NotTop high := by decide
theorem witness_AddressGenerationAndStackPointer : NotTop high := by decide
theorem witness_BranchWithLinkHalves : NotTop high := by decide

theorem witness_ShiftsByRegister :
    let s := with2 5#32 0x1FF#32 0#32
    5#32 = s.lo 0#3 ∧ 255 = (s.lo 1#3).toNat % 256 ∧ 0 = ((with2 5#32 0x100#32 0#32).lo 1#3).toNat % 256 ∧ NotTop s := by
  decide

theorem witness_MultiplyLowProduct :
    (1#3 = 1#3 ∧ high.params.mulSameReg = .refuse) ∧ (NotTop high ∧ (0#3 ≠ 1#3 ∨ high.params.mulSameReg = .compute)) := by
  decide

theorem witness_HiRegisterAddAndMove :
    ((7#4 : Reg).toNat < 8 ∧ (7#4 : Reg).toNat < 8) ∧
      ((8 ≤ (8#4 : Reg).toNat ∨ 8 ≤ (0#4 : Reg).toNat) ∧ physOf high.cpsr.m 8#4 = some (.mid 0) ∧ NotTop high) := by
  decide

theorem witness_HiRegisterCompare :
    ((7#4 : Reg).toNat < 8 ∧ (0#4 : Reg).toNat < 8) ∧
      ((8 ≤ (15#4 : Reg).toNat ∨ 8 ≤ (0#4 : Reg).toNat) ∧ (15#4 = 15#4 ∨ 0#4 = 15#4)) ∧ (8 ≤ (14#4 : Reg).toNat ∨ 8 ≤ (0#4 : Reg).toNat) ∧ 14#4 ≠ 15#4 ∧ 0#4 ≠ 15#4 ∧ NotTop high := by decide

theorem witness_ConditionalBranches :
    ((Instr.bne 1#8, 0b0001#4, high.cpsr.z = false) = (.bne 1#8, 0b0001#4, high.cpsr.z = false)) ∧
      high.cpsr.z = false ∧ ¬ high.cpsr.c = true ∧ NotTop high ∧ ¬ NotTop (st 0xFFFFFFFE#32 0#4 [] []) :=
  ⟨rfl, by decide, by decide, by decide, by decide⟩

theorem witness_BranchWithLinkExchangeLabel : high.params.arch = .v5T ∧ (v4T high).params.arch = .v4T := by decide

theorem witness_BranchExchange :
    ((with2 1#32 0#32 0#32).reg 0#4).getLsbD 0 = true ∧
      (((with2 0#32 0#32 0#32).reg 0#4).getLsbD 0 = false ∧ ((with2 0#32 0#32 0#32).reg 0#4).getLsbD 1 = false) ∧
      (((with2 2#32 0#32 0#32).reg 0#4).getLsbD 0 = false ∧ ((with2 2#32 0#32 0#32).reg 0#4).getLsbD 1 = true) ∧
      1#3 ≠ 0#3 := by decide

theorem witness_BranchLinkExchangeRegister :
    (v4T high).params.arch = .v4T ∧ high.params.arch = .v5T ∧
      (14#4 ≠ 15#4 ∧ ((with2 1#32 0#32 0#32).reg 0#4).getLsbD 0 = true) ∧
      (((with2 0#32 0#32 0#32).reg 0#4).getLsbD 0 = false ∧ ((with2 0#32 0#32 0#32).reg 0#4).getLsbD 1 = false) ∧
      (((with2 2#32 0#32 0#32).reg 0#4).getLsbD 0 = false ∧ ((with2 2#32 0#32 0#32).reg 0#4).getLsbD 1 = true) := by
  decide

/-- The largest forward offset of BL, from 0x8000. -/
theorem witness_bl_pair :
    let s := st 0x8000#32 0#4 [] []
    let off := 0x003FFFFE#32
    NotTop s ∧ s.pc.getLsbD 0 = false ∧ -4194304 ≤ off.toInt ∧ off.toInt ≤ 4194302 ∧
      off = 0x00408002#32 - (s.pc + 4#32) ∧ (0x00408002#32).getLsbD 0 = false := by decide

/-- The largest backward offset of BLX, from 0x8002. -/
theorem witness_blx_pair :
    let s := st 0x8002#32 0#4 [] []
    let off := 0xFFC00000#32
    NotTop s ∧ s.pc.getLsbD 0 = false ∧ -4194304 ≤ off.toInt ∧ off.toInt ≤ 4194302 ∧
      off = 0xFFC08004#32 - ((s.pc + 4#32) &&& 0xFFFFFFFC#32) ∧ (0xFFC08004#32).getLsbD 0 = false ∧
      (0xFFC08004#32).getLsbD 1 = false ∧ s.params.arch = .v5T := by decide

theorem witness_WordStores :
    let s := with2 0xFFFFFF80#32 0x7C#32 0xFFFFFFFC#32
    NotTop s ∧ s.mem.wf = true ∧ Accessible s .write (eaWord5 s 0#3 31#5) 4 ∧ Accessible s .write (eaReg s 0#3 1#3) 4 ∧
      Accessible s .write (eaSp s 0#8) 4 := by decide

theorem witness_NarrowStores :
    let s := with2 0xFFFFFFE0#32 0#32 0#32
    NotTop s ∧ s.mem.wf = true ∧ Accessible s .write (eaHalf5 s 0#3 15#5) 2 ∧ Accessible s .write (eaReg s 0#3 1#3) 2 ∧
      Accessible s .write (eaByte5 s 0#3 31#5) 1 ∧ Accessible s .write (eaReg s 0#3 1#3) 1 := by decide

theorem witness_WordLoads :
    let s := with2 0xFFFFFF80#32 0x7C#32 0xFFFFFFFC#32
    NotTop s ∧ Accessible s .read (s.lo 0#3 + BitVec.ofNat 32 (4 * (31#5).toNat)) 4 ∧
      Accessible s .read (s.lo 0#3 + s.lo 1#3) 4 ∧ Accessible s .read (s.sp + BitVec.ofNat 32 (4 * (0#8).toNat)) 4 ∧
      (∀ b ∈ byteAddrs (BitVec.ofNat 32 ((s.pc + 4#32).toNat / 4 * 4 + 4 * (255#8).toNat)) 4,
        admitsByte s.params.mem .read b = true) := by decide

theorem witness_UnsignedNarrowLoads :
    let s := with2 0xFFFFFFE0#32 0#32 0#32
    NotTop s ∧ Accessible s .read (s.lo 0#3 + BitVec.ofNat 32 (31#5).toNat) 1 ∧
      Accessible s .read (s.lo 0#3 + BitVec.ofNat 32 (2 * (15#5).toNat)) 2 ∧
      Accessible s .read (s.lo 0#3 + s.lo 1#3) 2 ∧ Accessible s .read (s.lo 0#3 + s.lo 1#3) 1 := by decide

theorem witness_SignedNarrowLoads :
    let s := with2 0xFFFFFFFE#32 0#32 0#32
    0xFFFFFFFE#32 = s.lo 0#3 + s.lo 1#3 ∧ NotTop s ∧ Accessible s .read 0xFFFFFFFE#32 1 ∧
      Accessible s .read 0xFFFFFFFE#32 2 := by decide

theorem witness_MisalignedAccessAbortsOrRefuses :
    let s := with2 0xFFFFFFFF#32 0#32 0#32
    accessOf (.strhReg 2#3 0#3 1#3) s = some (.write, 0xFFFFFFFF#32, 2) ∧ (0xFFFFFFFF#32 : Word).toNat % 2 ≠ 0 ∧
      s.params.alignPolicy = .fault ∧ (refusing s).params.alignPolicy = .refuse ∧
      accessOf (.strhReg 2#3 0#3 1#3) (refusing s) = some (.write, 0xFFFFFFFF#32, 2) := by decide

/-- The word just below the writable set. -/
theorem witness_UnadmittedAccessAborts :
    let s := mapped (with2 0x8FFC#32 0#32 0#32)
    accessOf (.strImm 2#3 0#3 0#5) s = some (.write, 0x8FFC#32, 4) ∧ (0x8FFC#32 : Word).toNat % 4 = 0 ∧
      (∃ b ∈ byteAddrs 0x8FFC#32 4, admitsByte s.params.mem .write b = false) := by decide

theorem witness_ByteOrderOfAccesses :
    Memory.wf [(0xFFFFFFFC, 1#8), (0xFFFFFFFF, 2#8)] = true := by decide

/-- Nine words do not exist in a list; eight do, and the second of two wraps to address 0. -/
theorem witness_StoreMultiple :
    let s := with2 0xFFFFFFFC#32 0#32 0#32
    NotTop s ∧ s.mem.wf = true ∧ 0b10000010#8 ≠ 0#8 ∧ (0b10000010#8).getLsbD (0#3).toNat = false ∧
      (∀ j < rank 0b10000010#8 8, Accessible s .write (wordAt (s.lo 0#3) j) 4) ∧
      (0b00000001#8).getLsbD (0#3).toNat = true := by decide

theorem witness_LoadMultiple :
    let s := with2 0xFFFFFFFC#32 0#32 0#32
    NotTop s ∧ 0b10000010#8 ≠ 0#8 ∧ (0b10000010#8).getLsbD (0#3).toNat = false ∧
      (∀ j < rank 0b10000010#8 8, Accessible s .read (wordAt (s.lo 0#3) j) 4) ∧
      (0b00000001#8).getLsbD (0#3).toNat = true := by decide

theorem witness_PushRegisters :
    let s := with2 0#32 0#32 4#32
    2 = rank 0x80#8 8 + true.toNat ∧ 0xFFFFFFFC#32 = s.sp - BitVec.ofNat 32 (4 * 2) ∧ NotTop s ∧ s.mem.wf = true ∧
      2 ≠ 0 ∧ (∀ j < 2, Accessible s .write (wordAt 0xFFFFFFFC#32 j) 4) ∧ 0 = rank 0#8 8 + false.toNat := by decide

theorem witness_PopRegisters :
    let s := with2 0#32 0#32 0xFFFFFFFC#32
    NotTop s ∧ 0b11#8 ≠ 0#8 ∧ (∀ j < rank 0b11#8 8, Accessible s .read (wordAt s.sp j) 4) := by decide

/-- A stack whose one word is 0x00000000, 0x00000002 or 0x00000003. -/
theorem witness_PopProgramCounter :
    (∀ low ∈ [0#8, 2#8, 3#8],
      let s := st 0x8000#32 0#4 [(.sp .usr, 0xFFFFFFFC#32)] (consCell 0xFFFFFFFC low [])
      (∀ j ≤ rank 0#8 8, Accessible s .read (wordAt s.sp j) 4) ∧
        low.setWidth 32 = BitVec.ofNat 32 (bytesValue s.params.endian s.mem (wordAt s.sp (rank 0#8 8)) 4) ∧
        s.params.arch = .v5T ∧ (v4T s).params.arch = .v4T) ∧
      (2#32 : Word).getLsbD 0 = false ∧ (2#32 : Word).getLsbD 1 = true ∧ (3#32 : Word).getLsbD 0 = true ∧
      (0#32 : Word).getLsbD 0 = false ∧ (0#32 : Word).getLsbD 1 = false := by decide

/-- Memory admitted for data ends at 0xFFFF: the second word of each transfer fails, and with an odd base the first. -/
theorem witness_MultipleTransferAbortsWhole :
    let s := mapped (with2 0xFFFC#32 0#32 0xFFFC#32)
    let o := refusing (with2 0xFFFE#32 0#32 0xFFFC#32)
    s.params.alignPolicy = .fault ∧ (0b110#8).getLsbD (0#3).toNat = false ∧ 1 < rank 0b110#8 8 ∧
      (∀ q < 1, Accessible s .write (wordAt (s.lo 0#3) q) 4) ∧ ¬ Accessible s .write (wordAt (s.lo 0#3) 1) 4 ∧
      ¬ Accessible s .read (wordAt (s.lo 0#3) 1) 4 ∧ ¬ Accessible s .read (wordAt s.sp 1) 4 ∧
      o.params.alignPolicy = .refuse ∧ (wordAt (o.lo 0#3) 0).toNat % 4 ≠ 0 ∧
      ¬ Accessible o .write (wordAt (o.lo 0#3) 0) 4 := by decide

/-- A push of r0 and r7 that wraps past address 0, and a later state with the same memory and SP. -/
theorem witness_PopUndoesPush :
    let s := with2 5#32 0#32 4#32
    Running s ∧ s.mem.wf = true ∧ 0x81#8 ≠ 0#8 ∧
      (∀ j < rank 0x81#8 8, Accessible s .read (wordAt (s.sp - BitVec.ofNat 32 (4 * rank 0x81#8 8)) j) 4) ∧
      (match exec (.push false 0x81#8) s with
        | .next t => decide (t.ended = none ∧ (t.setPc 0x8000#32).regs.get (spOf t) = t.sp ∧ NotTop (t.setPc 0x8000#32))
        | _ => false) = true := by decide

theorem witness_RegisterNumbersNameBankedRegisters :
    (8#4 : Reg).toNat = 8 + (0 : Fin 5).val ∧ (12#4 : Reg).toNat = 8 + (4 : Fin 5).val ∧ Mode.system ≠ .fiq := by decide

end Sys2Proof.Tests
end

section
/-! SUPPORT. Facts about words in memory and list transfers in the plain-arithmetic terms of Safety.lean: the word read
is the sum of its bytes, a list has as many registers as its rank, the checks are `Accessible`. -/

namespace Sys2Proof.Machine

/-- Bits joined, as a sum: the high part is scaled by the width of the low part. -/
theorem toNat_append_add {m n : Nat} (x : BitVec m) (y : BitVec n) : (x ++ y).toNat = x.toNat * 2 ^ n + y.toNat := by
  rw [BitVec.toNat_append, ← Nat.shiftLeft_add_eq_or_of_lt y.isLt, Nat.shiftLeft_eq]

/-- Four bytes joined, the highest first, as a sum. -/
theorem append_bytes_eq_ofNat (b3 b2 b1 b0 : Byte) :
    b3 ++ b2 ++ b1 ++ b0 =
      BitVec.ofNat 32 (b3.toNat * 2 ^ 24 + b2.toNat * 2 ^ 16 + b1.toNat * 2 ^ 8 + b0.toNat) := by
  have hsum : (b3 ++ b2 ++ b1 ++ b0).toNat =
      b3.toNat * 2 ^ 24 + b2.toNat * 2 ^ 16 + b1.toNat * 2 ^ 8 + b0.toNat := by
    rw [toNat_append_add, toNat_append_add, toNat_append_add]
    ring
  rw [← hsum, BitVec.ofNat_toNat, BitVec.setWidth_eq]

/-- The value of four bytes, written out (R52). -/
theorem bytesValue_four (e : Endian) (m : Memory) (a : Word) :
    bytesValue e m a 4 =
      (readByte m a.toNat).toNat * 2 ^ (8 * bytePlace e 4 0) +
        (readByte m (a + 1#32).toNat).toNat * 2 ^ (8 * bytePlace e 4 1) +
        (readByte m (a + 2#32).toNat).toNat * 2 ^ (8 * bytePlace e 4 2) +
        (readByte m (a + 3#32).toNat).toNat * 2 ^ (8 * bytePlace e 4 3) := by
  have hrange : List.range 4 = [0, 1, 2, 3] := rfl
  simp only [bytesValue, hrange, List.map_cons, List.map_nil, List.sum_cons, List.sum_nil, BitVec.add_zero, add_zero,
    add_assoc]

/-- A word read from memory is the value of its four bytes in the byte order (R52). -/
theorem readWord_eq_bytesValue (e : Endian) (m : Memory) (a : Word) :
    readWord e m a = BitVec.ofNat 32 (bytesValue e m a 4) := by
  rw [bytesValue_four]
  cases e with
  | little =>
    rw [readWord, append_bytes_eq_ofNat]
    congr 1
    simp only [bytePlace]
    ring
  | big =>
    rw [readWord, append_bytes_eq_ofNat]
    congr 1
    simp only [bytePlace]
    ring

theorem length_listRegs (list : BitVec 8) : (listRegs list).length = rank list 8 :=
  List.countP_eq_length_filter.symm

theorem listCount_eq_rank (r : Bool) (list : BitVec 8) : listCount r list = rank list 8 + r.toNat := by
  rw [listCount, length_listRegs]

theorem popPcAddr_eq_wordAt (s : State) (list : BitVec 8) : popPcAddr s list = wordAt s.sp (rank list 8) := by
  rw [popPcAddr, length_listRegs, bytesOfWords, wordAt]

/-- The checks of an access grant it exactly when it is aligned and every byte is admitted (R53, R55, R56). -/
theorem checkAccess_granted_iff_accessible {s : State} {k : AccessKind} {a : Word} {n : Nat} :
    checkAccess s k a n = .granted ↔ Accessible s k a n := by
  rw [checkAccess_granted, admits, List.all_eq_true]

/-- The checks of a multiple transfer grant it exactly when every word of it is accessible (R250(e)). -/
theorem checkWords_wordAddrs_granted {s : State} {k : AccessKind} {a : Word} {n : Nat} :
    checkWords s k (wordAddrs a n) = .granted ↔ ∀ j < n, Accessible s k (wordAt a j) 4 := by
  simp only [checkWords_granted, wordAddrs_eq, List.forall_mem_map, List.mem_range,
    checkAccess_granted_iff_accessible, wordAt]

theorem isLo_iff {r : Reg} : isLo r = true ↔ r.toNat < 8 := by simp [isLo]

/-- A branch to ARM state at a target with bits [1:0] = 10 gives the refusal it was handed (R125). -/
theorem interwork_unaligned {v : Word} (h0 : v.getLsbD 0 = false) (h1 : v.getLsbD 1 = true) (c : Cause)
    (bad : Refusal) (s : State) : interwork c bad v s = .refused bad := by
  simp only [interwork, h0, h1, if_true, Bool.false_eq_true, if_false]

/-- POP with the pc under v5T, its words accessible: an interworking branch to the word above the list's (R254). -/
theorem execPop_pc_v5T {s : State} {list : BitVec 8} (harch : s.params.arch = .v5T)
    (hacc : ∀ j ≤ rank list 8, Accessible s .read (wordAt s.sp j) 4) :
    execPop true list s =
      interwork .pop (.popTargetUnaligned (readWord s.params.endian s.mem (wordAt s.sp (rank list 8))))
        (readWord s.params.endian s.mem (wordAt s.sp (rank list 8)))
        ((loadRegs s.params.endian s.mem s ((listRegs list).zip (wordAddrs s.sp (rank list 8 + 1)))).setSp
          (s.sp + bytesOfWords (rank list 8 + 1))) := by
  have hk : listCount true list = rank list 8 + 1 := listCount_eq_rank true list
  have hgranted : checkWords s .read (wordAddrs s.sp (rank list 8 + 1)) = .granted :=
    checkWords_wordAddrs_granted.mpr fun j hj => hacc j (Nat.le_of_lt_succ hj)
  simp only [execPop, hk, Nat.add_one_ne_zero, if_false, hgranted, guarded, if_true, harch, popPcAddr_eq_wordAt]

end Sys2Proof.Machine
end

section
/-! SUPPORT. The refusals of 30_encoding.md R92, one lemma per restriction, and the statement assembled from them. -/

namespace Sys2Proof.Machine

/-! DP6: both registers Lo (U1), CMP with r15 (U17). -/

theorem execAddHi_bothLo {d m : Reg} (hd : d.toNat < 8) (hm : m.toNat < 8) (s : State) :
    execAddHi d m s = .refused .bothLo := by
  rw [execAddHi, isLo_iff.mpr hd, isLo_iff.mpr hm, Bool.and_self, if_pos rfl]

theorem execCmpHi_bothLo {d m : Reg} (hd : d.toNat < 8) (hm : m.toNat < 8) (s : State) :
    execCmpHi d m s = .refused .bothLo := by
  rw [execCmpHi, isLo_iff.mpr hd, isLo_iff.mpr hm, Bool.and_self, if_pos rfl]

theorem execMovHi_bothLo {d m : Reg} (hd : d.toNat < 8) (hm : m.toNat < 8) (s : State) :
    execMovHi d m s = .refused .bothLo := by
  rw [execMovHi, isLo_iff.mpr hd, isLo_iff.mpr hm, Bool.and_self, if_pos rfl]

theorem execCmpHi_pc {d m : Reg} (hhi : 8 ≤ d.toNat ∨ 8 ≤ m.toNat) (hpc : d = 15#4 ∨ m = 15#4) (s : State) :
    execCmpHi d m s = .refused .cmpHiPc := by
  have hnotLo : ¬ (isLo d && isLo m) = true := by
    rw [Bool.and_eq_true, isLo_iff, isLo_iff]
    omega
  rw [execCmpHi, if_neg hnotLo, if_pos hpc]

/-! B4: insn[2:0] not 000 (U2), BLX r15 (U3), an unaligned ARM target (U4), BLX under v4T (U8). -/

theorem execBx_sbz {z : BitVec 3} (hz : z ≠ 0#3) (m : Reg) (s : State) : execBx m z s = .refused .sbzNonzero :=
  if_neg hz

theorem execBlxReg_v5T {s : State} (harch : s.params.arch = .v5T) (m : Reg) (z : BitVec 3) :
    execBlxReg m z s =
      if z = 0#3 then
        if m = 15#4 then .refused .blxPc
        else interwork .blx (.armTargetUnaligned (s.reg m)) (s.reg m) (s.setLr (linkValue s))
      else .refused .sbzNonzero := by
  simp only [execBlxReg, harch]

theorem execBlxReg_v4T {s : State} (harch : s.params.arch = .v4T) (m : Reg) (z : BitVec 3) :
    execBlxReg m z s = .refused .blxRegV4T := by
  simp only [execBlxReg, harch]

theorem execBlxReg_sbz {s : State} {z : BitVec 3} (harch : s.params.arch = .v5T) (hz : z ≠ 0#3) (m : Reg) :
    execBlxReg m z s = .refused .sbzNonzero := by
  rw [execBlxReg_v5T harch, if_neg hz]

theorem execBlxReg_pc {s : State} (harch : s.params.arch = .v5T) : execBlxReg 15#4 0#3 s = .refused .blxPc := by
  rw [execBlxReg_v5T harch, if_pos rfl, if_pos rfl]

theorem execBx_unaligned {s : State} {m : Reg} (h0 : (s.reg m).getLsbD 0 = false) (h1 : (s.reg m).getLsbD 1 = true) :
    execBx m 0#3 s = .refused (.armTargetUnaligned (s.reg m)) := by
  rw [execBx, if_pos rfl, interwork_unaligned h0 h1]

theorem execBlxReg_unaligned {s : State} {m : Reg} (harch : s.params.arch = .v5T) (hm : m ≠ 15#4)
    (h0 : (s.reg m).getLsbD 0 = false) (h1 : (s.reg m).getLsbD 1 = true) :
    execBlxReg m 0#3 s = .refused (.armTargetUnaligned (s.reg m)) := by
  rw [execBlxReg_v5T harch, if_pos rfl, if_neg hm, interwork_unaligned h0 h1]

/-! MUL with Rd = Rm (U10). -/

theorem execMul_same {s : State} (hmul : s.params.mulSameReg = .refuse) (d : LoReg) :
    execMul d d s = .refused .mulSameReg :=
  if_pos ⟨rfl, hmul⟩

/-! Multiple transfers: the base in the list (U12), empty lists (U13), an unaligned pc from the stack (U15). -/

/-- A list that names a register is not empty. -/
theorem list_ne_zero_of_getLsbD {list : BitVec 8} {i : Nat} (h : list.getLsbD i = true) : list ≠ 0#8 := by
  rintro rfl
  simp at h

theorem execStmia_baseInList {n : LoReg} {list : BitVec 8} (h : list.getLsbD n.toNat = true) (s : State) :
    execStmia n list s = .refused .baseInList := by
  rw [execStmia, if_neg (list_ne_zero_of_getLsbD h), if_pos h]

theorem execLdmia_baseInList {n : LoReg} {list : BitVec 8} (h : list.getLsbD n.toNat = true) (s : State) :
    execLdmia n list s = .refused .baseInList := by
  rw [execLdmia, if_neg (list_ne_zero_of_getLsbD h), if_pos h]

theorem execStmia_empty (n : LoReg) (s : State) : execStmia n 0#8 s = .refused .emptyList := if_pos rfl

theorem execLdmia_empty (n : LoReg) (s : State) : execLdmia n 0#8 s = .refused .emptyList := if_pos rfl

theorem listCount_empty : listCount false 0#8 = 0 := by decide

theorem execPush_empty (s : State) : execPush false 0#8 s = .refused .emptyList := by
  simp only [execPush, listCount_empty, if_true]

theorem execPop_empty (s : State) : execPop false 0#8 s = .refused .emptyList := by
  simp only [execPop, listCount_empty, if_true]

theorem execPop_unaligned {s : State} {list : BitVec 8} {v : Word} (harch : s.params.arch = .v5T)
    (hacc : ∀ j ≤ rank list 8, Accessible s .read (wordAt s.sp j) 4)
    (hv : v = BitVec.ofNat 32 (bytesValue s.params.endian s.mem (wordAt s.sp (rank list 8)) 4))
    (h0 : v.getLsbD 0 = false) (h1 : v.getLsbD 1 = true) :
    execPop true list s = .refused (.popTargetUnaligned v) := by
  rw [execPop_pc_v5T harch hacc, readWord_eq_bytesValue, ← hv, interwork_unaligned h0 h1]

/-- Settles O23: each arm of `exec` is its meaning, and each clause is the refusal lemma of that meaning. -/
theorem operandRestrictionsRefused : Obligations.OperandRestrictionsRefused := by
  intro s
  refine ⟨?u1, ?u2, ?u3, ?u4, ?u8, ?u10, ?u12, ?u13, execPush_empty s, execPop_empty s, ?u15, ?u17⟩
  case u1 =>
    exact fun d m hd hm => ⟨execAddHi_bothLo hd hm s, execCmpHi_bothLo hd hm s, execMovHi_bothLo hd hm s⟩
  case u2 => exact fun m z hz => ⟨execBx_sbz hz m s, fun harch => execBlxReg_sbz harch hz m⟩
  case u3 => exact execBlxReg_pc
  case u4 =>
    exact fun m h0 h1 => ⟨execBx_unaligned h0 h1, fun harch hm => execBlxReg_unaligned harch hm h0 h1⟩
  case u8 => exact fun m harch => execBlxReg_v4T harch m 0#3
  case u10 => exact fun d hmul => execMul_same hmul d
  case u12 => exact fun n list h => ⟨execStmia_baseInList h s, execLdmia_baseInList h s⟩
  case u13 => exact fun n => ⟨execStmia_empty n s, execLdmia_empty n s⟩
  case u15 => exact fun list harch hacc v hv h0 h1 => execPop_unaligned harch hacc hv h0 h1
  case u17 => exact fun d m hhi hpc => execCmpHi_pc hhi hpc s

end Sys2Proof.Machine
end

section
/-! SUPPORT. Fields of a halfword spelled as an opcode joined to its operands, the decoding of the branch formats
B1 to B4 (30_encoding.md R83, R90), and the branch offsets in plain arithmetic (R87). -/

namespace Sys2Proof

/-! B1: the conditional branches, named by their conditions (R95). -/

/-- The branch of format B1 with a condition. -/
def condBranch (c : Cond) (off : BitVec 8) : Instr :=
  match c with
  | .eq => .beq off
  | .ne => .bne off
  | .cs => .bcs off
  | .cc => .bcc off
  | .mi => .bmi off
  | .pl => .bpl off
  | .vs => .bvs off
  | .vc => .bvc off
  | .hi => .bhi off
  | .ls => .bls off
  | .ge => .bge off
  | .lt => .blt off
  | .gt => .bgt off
  | .le => .ble off

/-- The code of a condition, `insn[11:8]` (R95). -/
def condCode (c : Cond) : BitVec 4 :=
  match c with
  | .eq => 0b0000#4
  | .ne => 0b0001#4
  | .cs => 0b0010#4
  | .cc => 0b0011#4
  | .mi => 0b0100#4
  | .pl => 0b0101#4
  | .vs => 0b0110#4
  | .vc => 0b0111#4
  | .hi => 0b1000#4
  | .ls => 0b1001#4
  | .ge => 0b1010#4
  | .lt => 0b1011#4
  | .gt => 0b1100#4
  | .le => 0b1101#4

theorem decodeHalf_row1101 {w : Half} (h : field w 11 5 = 0b11010#5 ∨ field w 11 5 = 0b11011#5) :
    decodeHalf w = decode1101 w := by
  unfold decodeHalf
  rcases h with h | h
  · rw [h]; rfl
  · rw [h]; rfl

theorem decodeHalf_condBranch (c : Cond) (off : BitVec 8) :
    decodeHalf (0b1101#4 ++ condCode c ++ off) = condBranch c off := by
  have hrow : field (0b1101#4 ++ condCode c ++ off) 11 5 = (0b1101#4 ++ condCode c).extractLsb' 3 5 :=
    BitVec.extractLsb'_append_eq_of_le (by decide)
  have hcond : field (0b1101#4 ++ condCode c ++ off) 8 4 = condCode c :=
    (BitVec.extractLsb'_append_eq_of_le (by decide)).trans BitVec.extractLsb'_append_eq_right
  have hoff : field (0b1101#4 ++ condCode c ++ off) 0 8 = off := BitVec.extractLsb'_append_eq_right
  have htop : (0b1101#4 ++ condCode c).extractLsb' 3 5 = 0b11010#5 ∨
      (0b1101#4 ++ condCode c).extractLsb' 3 5 = 0b11011#5 := by
    cases c <;> decide
  rw [decodeHalf_row1101 (hrow ▸ htop), decode1101, hcond, hoff]
  cases c <;> rfl

/-! B2, B3: five bits of opcode and an offset. -/

theorem field_opcode5 (op : BitVec 5) (off : BitVec 11) : field (op ++ off) 11 5 = op :=
  BitVec.extractLsb'_append_eq_left

theorem field_offset11 (op : BitVec 5) (off : BitVec 11) : field (op ++ off) 0 11 = off :=
  BitVec.extractLsb'_append_eq_right

theorem decodeHalf_b (off : BitVec 11) : decodeHalf (0b11100#5 ++ off) = .b off := by
  rw [decodeHalf, field_opcode5, field_offset11]
  rfl

theorem decodeHalf_blFirst (off : BitVec 11) : decodeHalf (0b11110#5 ++ off) = .blFirst off := by
  rw [decodeHalf, field_opcode5, field_offset11]
  rfl

theorem decodeHalf_blSecond (off : BitVec 11) : decodeHalf (0b11111#5 ++ off) = .blSecond off := by
  rw [decodeHalf, field_opcode5, field_offset11]
  rfl

/-- Bit 0 tells the second half of `BLX label` from the UNDEFINED row beside it (R91). -/
theorem decodeHalf_blxRow (off : BitVec 10) (b : BitVec 1) :
    decodeHalf (0b11101#5 ++ off ++ b) = if b.getLsbD 0 then .undE8 off else .blxLabel off := by
  have hrow : field (0b11101#5 ++ off ++ b) 11 5 = 0b11101#5 :=
    (BitVec.extractLsb'_append_eq_of_le (by decide)).trans BitVec.extractLsb'_append_eq_left
  have hoff : field (0b11101#5 ++ off ++ b) 1 10 = off :=
    (BitVec.extractLsb'_append_eq_of_le (Nat.le_refl 1)).trans BitVec.extractLsb'_append_eq_right
  have hbit : bitAt (0b11101#5 ++ off ++ b) 0 = b.getLsbD 0 := BitVec.getLsbD_append.trans (if_pos (by decide))
  rw [decodeHalf, hrow, hoff, hbit]
  rfl

/-! B4: nine bits of opcode, a register number and `insn[2:0]`. -/

/-- The last bit of the opcode tells BLX Rm from BX (R83). -/

theorem decodeHalf_hiBranch (l : BitVec 1) (m : Reg) (z : BitVec 3) :
    decodeHalf (0b01000111#8 ++ l ++ m ++ z) = if l.getLsbD 0 then .blxReg m z else .bx m z := by
  have hopcode {start len : Nat} (h : 8 ≤ start) :
      field (0b01000111#8 ++ l ++ m ++ z) start len = (0b01000111#8).extractLsb' (start - 3 - 4 - 1) len :=
    (BitVec.extractLsb'_append_eq_of_le (by omega)).trans <|
      (BitVec.extractLsb'_append_eq_of_le (by omega)).trans (BitVec.extractLsb'_append_eq_of_le (by omega))
  have hrow : field (0b01000111#8 ++ l ++ m ++ z) 11 5 = 0b01000#5 := hopcode (by decide)
  have hop : field (0b01000111#8 ++ l ++ m ++ z) 8 2 = 0b11#2 := hopcode (Nat.le_refl 8)
  have hhi : bitAt (0b01000111#8 ++ l ++ m ++ z) 10 = true :=
    BitVec.getLsbD_append.trans <| BitVec.getLsbD_append.trans BitVec.getLsbD_append
  have hlink : bitAt (0b01000111#8 ++ l ++ m ++ z) 7 = l.getLsbD 0 :=
    BitVec.getLsbD_append.trans <| BitVec.getLsbD_append.trans BitVec.getLsbD_append
  have hm : field (0b01000111#8 ++ l ++ m ++ z) 3 4 = m :=
    (BitVec.extractLsb'_append_eq_of_le (Nat.le_refl 3)).trans BitVec.extractLsb'_append_eq_right
  have hz : field (0b01000111#8 ++ l ++ m ++ z) 0 3 = z := BitVec.extractLsb'_append_eq_right
  rw [decodeHalf, hrow, hhi, decodeHi, hop, hlink, hm, hz]
  rfl

theorem decodeHalf_bx (m : Reg) (z : BitVec 3) : decodeHalf (0b010001110#9 ++ m ++ z) = .bx m z :=
  decodeHalf_hiBranch 0#1 m z

theorem decodeHalf_blxReg (m : Reg) (z : BitVec 3) : decodeHalf (0b010001111#9 ++ m ++ z) = .blxReg m z :=
  decodeHalf_hiBranch 1#1 m z

end Sys2Proof

namespace Sys2Proof.Machine

/-! Branch offsets. -/

theorem branchOffset_eq {w : Nat} (x : BitVec w) : branchOffset x = BitVec.ofInt 32 (2 * x.toInt) := by
  rw [branchOffset, BitVec.signExtend, BitVec.toInt_append_zero, Int.pow_one]

theorem blUpperOffset_eq (x : BitVec 11) : blUpperOffset x = BitVec.ofInt 32 (4096 * x.toInt) := by
  rw [blUpperOffset, BitVec.signExtend, BitVec.shiftLeft_eq_mul_twoPow, mul_comm, BitVec.ofInt_mul]
  rfl

theorem zext2_eq {w : Nat} (x : BitVec w) : zext2 x = BitVec.ofNat 32 (2 * x.toNat) := by
  apply BitVec.eq_of_toNat_eq
  simp [zext2, Nat.shiftLeft_eq, Nat.mul_comm]

theorem zext2_append_zero {w : Nat} (x : BitVec w) : zext2 (x ++ 0#1) = BitVec.ofNat 32 (4 * x.toNat) := by
  rw [zext2_eq, toNat_append_add]
  congr 1
  simp; omega

end Sys2Proof.Machine
end

section
/-! SUPPORT. What the branches change (40_branch.md): each writes the pc, some LR, some T; and the statements of
40_branch.md assembled. -/

namespace Sys2Proof.Machine

/-! States that differ in the listed registers and the pc alone. -/

/-- Everything but the listed registers and the pc is unchanged. -/
def ChangesOnly (rs : List PhysReg) (s t : State) : Prop := Frame rs s t ∧ FlagsKept s t ∧ MemKept s t

theorem changesOnly_self (s : State) : ChangesOnly [] s s :=
  ⟨⟨fun _ _ => rfl, ⟨rfl, rfl, rfl, rfl, rfl, rfl, rfl, rfl, rfl, rfl⟩, rfl, rfl⟩, ⟨rfl, rfl, rfl, rfl⟩, fun _ => rfl⟩

theorem changesOnly_setLr (s : State) (v : Word) : ChangesOnly [lrOf s] s (s.setLr v) := by
  refine ⟨⟨fun p hp => ?regs, (changesOnly_self s).1.2⟩, (changesOnly_self s).2⟩
  exact RegFile.get_set_ne s.regs (List.ne_of_not_mem_cons hp) v

theorem changesOnly_setPc {rs : List PhysReg} {s t : State} (h : ChangesOnly rs s t) (v : Word) :
    ChangesOnly rs s (t.setPc v) := h

/-- Such a change followed by an entry to Thumb state (R125). -/
theorem staysThumb_of_changesOnly {rs : List PhysReg} {s t : State} (h : ChangesOnly rs s t) (v : Word) :
    StaysThumb rs s ((t.setCpsr { t.cpsr with t := true }).setPc v) := by
  obtain ⟨⟨hregs, hsys, -, hended⟩, hflags, hmem⟩ := h
  exact ⟨hregs, hsys, hflags, hmem, rfl, hended⟩

/-- Such a change followed by the end of the run in ARM state (R7). -/
theorem leavesThumb_of_changesOnly {rs : List PhysReg} {s t : State} (h : ChangesOnly rs s t) (c : Cause) (v : Word) :
    LeavesThumb c rs s (((t.setCpsr { t.cpsr with t := false }).setPc v).finish (.leftThumb c)) := by
  obtain ⟨⟨hregs, hsys, -, -⟩, hflags, hmem⟩ := h
  exact ⟨hregs, hsys, hflags, hmem, rfl, rfl⟩

/-! Branches within Thumb state. -/

theorem branchesTo_of_exec {i : Instr} {s : State} {v : Word} (h : exec i s = .next (s.setPc v)) : BranchesTo i s v :=
  ⟨s.setPc v, h, rfl, changesOnly_setPc (changesOnly_self s) v⟩

/-- A condition on the flags as R95 words it. -/
def Passes (c : Cond) (p : PSR) : Prop :=
  match c with
  | .eq => p.z = true
  | .ne => p.z = false
  | .cs => p.c = true
  | .cc => p.c = false
  | .mi => p.n = true
  | .pl => p.n = false
  | .vs => p.v = true
  | .vc => p.v = false
  | .hi => p.c = true ∧ p.z = false
  | .ls => p.c = false ∨ p.z = true
  | .ge => p.n = p.v
  | .lt => p.n ≠ p.v
  | .gt => p.z = false ∧ p.n = p.v
  | .le => p.z = true ∨ p.n ≠ p.v

theorem conditionPassed_iff (c : Cond) (p : PSR) : conditionPassed c p = true ↔ Passes c p := by
  cases c <;> simp [conditionPassed, Passes]

theorem exec_condBranch (c : Cond) (off : BitVec 8) (s : State) : exec (condBranch c off) s = branchIf c off s := by
  cases c <;> rfl

theorem exec_condBranch_taken {c : Cond} {s : State} (h : Passes c s.cpsr) (off : BitVec 8) :
    exec (condBranch c off) s = .next (s.setPc (s.pc + 4#32 + BitVec.ofInt 32 (2 * off.toInt))) := by
  rw [exec_condBranch, branchIf, if_pos ((conditionPassed_iff c _).mpr h), branchOffset_eq, State.pcValue]

theorem exec_condBranch_not_taken {c : Cond} {s : State} (h : ¬ Passes c s.cpsr) (off : BitVec 8) :
    exec (condBranch c off) s = advance s := by
  rw [exec_condBranch, branchIf, if_neg ((conditionPassed_iff c _).not.mpr h)]

/-- Settles O36: the fourteen rows are the fourteen conditions, and for each the branch is taken or moves on.
The name is qualified because `conditionalBranches` is a definition of Safety.lean. -/
theorem Branch.conditionalBranches : Obligations.ConditionalBranches := by
  intro s off i code taken h
  obtain ⟨c, hc⟩ : ∃ c, (i, code, taken) = (condBranch c off, condCode c, Passes c s.cpsr) := by
    rcases h with h | h | h | h | h | h | h | h | h | h | h | h | h | h
    exacts [⟨.eq, h⟩, ⟨.ne, h⟩, ⟨.cs, h⟩, ⟨.cc, h⟩, ⟨.mi, h⟩, ⟨.pl, h⟩, ⟨.vs, h⟩, ⟨.vc, h⟩, ⟨.hi, h⟩, ⟨.ls, h⟩,
      ⟨.ge, h⟩, ⟨.lt, h⟩, ⟨.gt, h⟩, ⟨.le, h⟩]
  simp only [Prod.mk.injEq] at hc
  obtain ⟨rfl, rfl, rfl⟩ := hc
  refine ⟨decodeHalf_condBranch c off, fun ht => ?taken, fun hn htop => ?movesOn, fun hn htop => ?refused⟩
  case taken => exact branchesTo_of_exec (exec_condBranch_taken ht off)
  case movesOn => exact branchesTo_of_exec ((exec_condBranch_not_taken hn off).trans (advance_eq htop))
  case refused => exact (exec_condBranch_not_taken hn off).trans (advance_wrap (not_not.mp htop))

/-- Settles O37: a branch within Thumb state that tests nothing. -/
theorem unconditionalBranch : Obligations.UnconditionalBranch := by
  refine fun s off => ⟨decodeHalf_b off, branchesTo_of_exec ?_⟩
  rw [← branchOffset_eq]
  rfl

/-! BL and BLX: the two halves. -/

theorem writesOnly_blFirst {s : State} (htop : NotTop s) (off : BitVec 11) :
    WritesOnly (.blFirst off) s (lrOf s) (s.pc + 4#32 + BitVec.ofInt 32 (4096 * off.toInt)) := by
  obtain ⟨hframe, hflags, hmem⟩ := changesOnly_setLr s (s.pcValue + blUpperOffset off)
  refine ⟨_, advance_eq (s := s.setLr (s.pcValue + blUpperOffset off)) htop, ?value, hflags, hframe, hmem, rfl⟩
  rw [← blUpperOffset_eq]
  exact RegFile.get_set_same s.regs (lrOf s) _

/-- Settles O38: the first half is a write of LR, the second a branch from a state with LR written. -/
theorem branchWithLinkHalves : Obligations.BranchWithLinkHalves := by
  intro s off
  refine ⟨decodeHalf_blFirst off, decodeHalf_blSecond off, fun htop => writesOnly_blFirst htop off, ?second⟩
  refine ⟨(s.setLr (linkValue s)).setPc (clearBit0 (s.lr + zext2 off)), rfl, ?pc, ?lr,
    changesOnly_setPc (changesOnly_setLr s _) _⟩
  case pc => rw [State.setPc_pc, clearBit0, zext2_eq]
  case lr => rw [State.lr_setPc, State.lr_setLr, linkValue]

theorem execBlxLabel_v5T {s : State} (harch : s.params.arch = .v5T) (off : BitVec 10) :
    execBlxLabel off s =
      .next ((((s.setLr (linkValue s)).setCpsr { (s.setLr (linkValue s)).cpsr with t := false }).setPc
        (clearBits10 (s.lr + zext2 (off ++ 0#1)))).finish (.leftThumb .blx)) := by
  rw [execBlxLabel, harch]
  rfl

theorem execBlxLabel_v4T {s : State} (harch : s.params.arch = .v4T) (off : BitVec 10) :
    execBlxLabel off s = .next (takeException .undefinedInstruction s) := by
  rw [execBlxLabel, harch]

/-- Settles O39: under v5T the run ends in ARM state from the state with LR written. -/
theorem branchWithLinkExchangeLabel : Obligations.BranchWithLinkExchangeLabel := by
  intro s off
  refine ⟨decodeHalf_blxRow off 0#1, decodeHalf_blxRow off 1#1, fun harch => execBlxLabel_v4T harch off,
    fun harch => ⟨_, execBlxLabel_v5T harch off, ?pc, ?lr, leavesThumb_of_changesOnly (changesOnly_setLr s _) _ _⟩⟩
  case pc => rw [State.finish_pc, State.setPc_pc, clearBits10, zext2_append_zero]
  case lr => exact State.lr_setLr s (linkValue s)

/-! BX and BLX Rm: an interworking branch from the state with LR written, or not. -/

theorem reg_pc (s : State) : s.reg 15#4 = s.pc + 4#32 := by
  rw [State.reg, (physOf_eq_none s.cpsr.m 15#4).mpr rfl, State.pcValue]

/-- An interworking branch to Thumb code (R125), from a state that differs from `s` in listed registers alone. -/
theorem interwork_staysThumb {rs : List PhysReg} {s t : State} {v : Word} (h : ChangesOnly rs s t)
    (h0 : v.getLsbD 0 = true) (c : Cause) (bad : Refusal) :
    ∃ u, interwork c bad v t = .next u ∧ u.pc = v &&& 0xFFFFFFFE#32 ∧ u.lr = t.lr ∧ StaysThumb rs s u :=
  ⟨_, if_pos h0, rfl, rfl, staysThumb_of_changesOnly h _⟩

/-- An interworking branch to a word-aligned ARM target (R125), from such a state. -/
theorem interwork_leavesThumb {rs : List PhysReg} {s t : State} {v : Word} (h : ChangesOnly rs s t)
    (h0 : v.getLsbD 0 = false) (h1 : v.getLsbD 1 = false) (c : Cause) (bad : Refusal) :
    ∃ u, interwork c bad v t = .next u ∧ u.pc = v ∧ u.lr = t.lr ∧ LeavesThumb c rs s u := by
  have hexec : interwork c bad v t =
      .next (((t.setCpsr { t.cpsr with t := false }).setPc v).finish (.leftThumb c)) := by
    rw [interwork, h0, h1]
    rfl
  exact ⟨_, hexec, rfl, rfl, leavesThumb_of_changesOnly h c v⟩

theorem execBx_interwork (m : Reg) (s : State) :
    execBx m 0#3 s = interwork .bx (.armTargetUnaligned (s.reg m)) (s.reg m) s := if_pos rfl

theorem execBlxReg_interwork {s : State} {m : Reg} (harch : s.params.arch = .v5T) (hm : m ≠ 15#4) :
    execBlxReg m 0#3 s = interwork .blx (.armTargetUnaligned (s.reg m)) (s.reg m) (s.setLr (linkValue s)) := by
  rw [execBlxReg_v5T harch, if_pos rfl, if_neg hm]

/-- Settles O40: the two bits of the target choose between Thumb state, ARM state and the refusal. -/
theorem branchExchange : Obligations.BranchExchange := by
  intro s m
  refine ⟨decodeHalf_bx m 0#3, reg_pc s, fun h0 => ?thumb, fun h0 h1 => ?arm, fun h0 h1 => execBx_unaligned h0 h1,
    fun z hz => execBx_sbz hz m s⟩
  case thumb =>
    obtain ⟨t, ht, hpc, -, hstays⟩ := interwork_staysThumb (changesOnly_self s) h0 .bx _
    exact ⟨t, (execBx_interwork m s).trans ht, hpc, hstays⟩
  case arm =>
    obtain ⟨t, ht, hpc, -, hleaves⟩ := interwork_leavesThumb (changesOnly_self s) h0 h1 .bx _
    exact ⟨t, (execBx_interwork m s).trans ht, hpc, hleaves⟩

/-- Settles O41: under v5T as BX, from the state with LR written and the target read before. -/
theorem branchLinkExchangeRegister : Obligations.BranchLinkExchangeRegister := by
  intro s m
  refine ⟨decodeHalf_blxReg m 0#3, fun harch => ?v4T, fun harch => ⟨?sbz, ?pc, ?thumb, ?arm, ?unaligned⟩⟩
  case v4T => exact ⟨execBlxReg_v4T harch m 0#3, fun z => .inr (execBlxReg_v4T harch m z)⟩
  case sbz => exact fun z hz => execBlxReg_sbz harch hz m
  case pc => exact fun hm => hm ▸ execBlxReg_pc harch
  case thumb =>
    intro hm h0
    obtain ⟨t, ht, hpc, hlr, hstays⟩ := interwork_staysThumb (changesOnly_setLr s (linkValue s)) h0 .blx _
    exact ⟨t, (execBlxReg_interwork harch hm).trans ht, hpc, hlr.trans (State.lr_setLr s _), hstays⟩
  case arm =>
    intro hm h0 h1
    obtain ⟨t, ht, hpc, hlr, hleaves⟩ := interwork_leavesThumb (changesOnly_setLr s (linkValue s)) h0 h1 .blx _
    exact ⟨t, (execBlxReg_interwork harch hm).trans ht, hpc, hlr.trans (State.lr_setLr s _), hleaves⟩
  case unaligned => exact fun hm h0 h1 => execBlxReg_unaligned harch hm h0 h1

end Sys2Proof.Machine
end

section
/-! SUPPORT. The software interrupt (41_swi.md R140): its decoding, and what the entry to an exception other than Reset
writes and keeps (60_exceptions.md R275). -/

namespace Sys2Proof

/-- The last code of `insn[11:8]` in the conditional branch row spells SWI (R83, R90). -/
theorem decodeHalf_swi (imm : BitVec 8) : decodeHalf (0b11011111#8 ++ imm) = .swi imm := by
  have hrow : field (0b11011111#8 ++ imm) 11 5 = 0b11011#5 := BitVec.extractLsb'_append_eq_of_le (by decide)
  have hcode : field (0b11011111#8 ++ imm) 8 4 = 0b1111#4 := BitVec.extractLsb'_append_eq_of_le (Nat.le_refl 8)
  have himm : field (0b11011111#8 ++ imm) 0 8 = imm := BitVec.extractLsb'_append_eq_right
  rw [decodeHalf_row1101 (.inr hrow), decode1101, hcode, himm]
  rfl

end Sys2Proof

namespace Sys2Proof.Machine

/-! The entry to an exception. -/

/-- Every exception enters a mode with a bank, and so an SPSR, of its own (R271). -/
theorem Exc.bankOf_mode_ne_usr (e : Exc) : bankOf e.mode ≠ .usr := by
  cases e <;> exact Bank.noConfusion

theorem enterException_link (e : Exc) (s : State) :
    (enterException e s).regs.get (.lr (bankOf e.mode)) = returnLink e s := by
  rw [enterException_regs, RegFile.get_set_same]

theorem enterException_regsKept (e : Exc) (s : State) : RegsKept [.lr (bankOf e.mode)] s (enterException e s) := by
  intro p hp
  rw [enterException_regs, RegFile.get_set_ne s.regs (List.ne_of_not_mem_cons hp)]

theorem enterException_savedStatus (e : Exc) (s : State) :
    (enterException e s).spsr.get (bankOf e.mode) = some s.cpsr := by
  rw [enterException_spsr, SpsrFile.get_set_same s.spsr e.bankOf_mode_ne_usr]

theorem enterException_spsrKept (e : Exc) (s : State) {b : Bank} (hb : b ≠ bankOf e.mode) :
    (enterException e s).spsr.get b = s.spsr.get b := by
  rw [enterException_spsr, SpsrFile.get_set_ne s.spsr hb]

theorem enterException_flagsKept (e : Exc) (s : State) : FlagsKept s (enterException e s) := by
  rw [FlagsKept, enterException_cpsr]
  exact ⟨rfl, rfl, rfl, rfl⟩

theorem enterException_memKept (e : Exc) (s : State) : MemKept s (enterException e s) := by
  intro a
  rw [enterException_mem]

/-- F is kept by an entry that does not mask FIQ (R271). -/
theorem enterException_fiqMaskKept {e : Exc} (h : e.masksFiq = false) (s : State) :
    (enterException e s).cpsr.f = s.cpsr.f := by
  rw [enterException_cpsr, h, Bool.or_false]

@[simp] theorem enterException_output (e : Exc) (s : State) : (enterException e s).output = s.output := rfl

/-! SWI. -/

theorem execSwi_architectural {s : State} (henv : s.params.swiEnv = .architectural) (imm : BitVec 8) :
    execSwi imm s = .next (enterException (.softwareInterrupt imm) s) := by
  rw [execSwi, henv]
  rfl

theorem softwareInterrupt_vector (imm : BitVec 8) : (Exc.softwareInterrupt imm).vector = 0x00000008#32 := by
  rw [Exc.vector, Config.vectorBase]
  rfl

/-- Settles O20: the state after SWI is the entry to the exception, whose bank is that of Supervisor mode. -/
theorem softwareInterruptEntry : Obligations.SoftwareInterruptEntry := by
  intro s imm
  refine ⟨decodeHalf_swi imm, fun henv => ?entry⟩
  have hcpsr := enterException_cpsr (.softwareInterrupt imm) s
  refine ⟨enterException (.softwareInterrupt imm) s, execSwi_architectural henv imm,
    enterException_link (.softwareInterrupt imm) s, ?spsr, ?irqMask, ?thumb, ?mode, softwareInterrupt_vector imm,
    enterException_fiqMaskKept rfl s, enterException_flagsKept _ s, ?reserved,
    enterException_regsKept (.softwareInterrupt imm) s, fun b hb => enterException_spsrKept _ s hb,
    enterException_memKept _ s, enterException_params _ s, enterException_events _ s, enterException_output _ s,
    enterException_ended _ s⟩
  case spsr => exact Option.some.inj (enterException_savedStatus (.softwareInterrupt imm) s)
  case irqMask => rw [hcpsr]
  case thumb => rw [hcpsr]
  case mode => rw [hcpsr, Exc.mode]
  case reserved => rw [hcpsr]

end Sys2Proof.Machine
end

section
/-! SUPPORT. The decoding of the data processing formats DP1 to DP8 (30_encoding.md R82, R89, R90). -/

namespace Sys2Proof

/-! DP1, DP2: a 2-bit code, a register or a 3-bit immediate, two registers. -/

/-- The instruction of DP1 or DP2 with the code `insn[10:9]` (R82). -/
def dp1Instr (op : BitVec 2) (d n x : BitVec 3) : Instr :=
  match op.toNat with
  | 0 => .addReg d n x
  | 1 => .subReg d n x
  | 2 => .addImm3 d n x
  | _ => .subImm3 d n x

theorem decodeHalf_dp1 (op : BitVec 2) (x n d : BitVec 3) :
    decodeHalf (0b00011#5 ++ op ++ x ++ n ++ d) = dp1Instr op d n x := by
  have hopcode {start len : Nat} (h : 9 ≤ start) :
      field (0b00011#5 ++ op ++ x ++ n ++ d) start len = (0b00011#5 ++ op).extractLsb' (start - 3 - 3 - 3) len :=
    (BitVec.extractLsb'_append_eq_of_le (by omega)).trans <|
      (BitVec.extractLsb'_append_eq_of_le (by omega)).trans (BitVec.extractLsb'_append_eq_of_le (by omega))
  have hrow : field (0b00011#5 ++ op ++ x ++ n ++ d) 11 5 = 0b00011#5 :=
    (hopcode (by decide)).trans BitVec.extractLsb'_append_eq_left
  have hop : field (0b00011#5 ++ op ++ x ++ n ++ d) 9 2 = op :=
    (hopcode (Nat.le_refl 9)).trans BitVec.extractLsb'_append_eq_right
  have hx : field (0b00011#5 ++ op ++ x ++ n ++ d) 6 3 = x :=
    (BitVec.extractLsb'_append_eq_of_le (by decide)).trans <|
      (BitVec.extractLsb'_append_eq_of_le (Nat.le_refl 3)).trans BitVec.extractLsb'_append_eq_right
  have hn : field (0b00011#5 ++ op ++ x ++ n ++ d) 3 3 = n :=
    (BitVec.extractLsb'_append_eq_of_le (Nat.le_refl 3)).trans BitVec.extractLsb'_append_eq_right
  have hd : field (0b00011#5 ++ op ++ x ++ n ++ d) 0 3 = d := BitVec.extractLsb'_append_eq_right
  rw [decodeHalf, hrow, decodeAddSub, hop, hx, hn, hd]
  rfl

/-! DP3, DP7: five bits of opcode, a register, an 8-bit immediate. -/

theorem field_dp3_opcode (op : BitVec 5) (d : LoReg) (imm : BitVec 8) : field (op ++ d ++ imm) 11 5 = op :=
  (BitVec.extractLsb'_append_eq_of_le (by decide)).trans BitVec.extractLsb'_append_eq_left

theorem field_dp3_register (op : BitVec 5) (d : LoReg) (imm : BitVec 8) : field (op ++ d ++ imm) 8 3 = d :=
  (BitVec.extractLsb'_append_eq_of_le (Nat.le_refl 8)).trans BitVec.extractLsb'_append_eq_right

theorem field_dp3_immediate (op : BitVec 5) (d : LoReg) (imm : BitVec 8) : field (op ++ d ++ imm) 0 8 = imm :=
  BitVec.extractLsb'_append_eq_right

theorem decodeHalf_movImm8 (d : LoReg) (imm : BitVec 8) : decodeHalf (0b00100#5 ++ d ++ imm) = .movImm8 d imm := by
  rw [decodeHalf, field_dp3_opcode, field_dp3_register, field_dp3_immediate]
  rfl

theorem decodeHalf_cmpImm8 (d : LoReg) (imm : BitVec 8) : decodeHalf (0b00101#5 ++ d ++ imm) = .cmpImm8 d imm := by
  rw [decodeHalf, field_dp3_opcode, field_dp3_register, field_dp3_immediate]
  rfl

theorem decodeHalf_addImm8 (d : LoReg) (imm : BitVec 8) : decodeHalf (0b00110#5 ++ d ++ imm) = .addImm8 d imm := by
  rw [decodeHalf, field_dp3_opcode, field_dp3_register, field_dp3_immediate]
  rfl

theorem decodeHalf_subImm8 (d : LoReg) (imm : BitVec 8) : decodeHalf (0b00111#5 ++ d ++ imm) = .subImm8 d imm := by
  rw [decodeHalf, field_dp3_opcode, field_dp3_register, field_dp3_immediate]
  rfl

theorem decodeHalf_addPc (d : LoReg) (imm : BitVec 8) : decodeHalf (0b10100#5 ++ d ++ imm) = .addPc d imm := by
  rw [decodeHalf, field_dp3_opcode, field_dp3_register, field_dp3_immediate]
  rfl

theorem decodeHalf_addRdSp (d : LoReg) (imm : BitVec 8) : decodeHalf (0b10101#5 ++ d ++ imm) = .addRdSp d imm := by
  rw [decodeHalf, field_dp3_opcode, field_dp3_register, field_dp3_immediate]
  rfl

/-! DP4: five bits of opcode, a 5-bit amount, two registers. -/

theorem field_dp4_opcode (op sh : BitVec 5) (m d : LoReg) : field (op ++ sh ++ m ++ d) 11 5 = op :=
  (BitVec.extractLsb'_append_eq_of_le (by decide)).trans <|
    (BitVec.extractLsb'_append_eq_of_le (by decide)).trans BitVec.extractLsb'_append_eq_left

theorem field_dp4_amount (op sh : BitVec 5) (m d : LoReg) : field (op ++ sh ++ m ++ d) 6 5 = sh :=
  (BitVec.extractLsb'_append_eq_of_le (by decide)).trans <|
    (BitVec.extractLsb'_append_eq_of_le (Nat.le_refl 3)).trans BitVec.extractLsb'_append_eq_right

theorem field_dp4_source (op sh : BitVec 5) (m d : LoReg) : field (op ++ sh ++ m ++ d) 3 3 = m :=
  (BitVec.extractLsb'_append_eq_of_le (Nat.le_refl 3)).trans BitVec.extractLsb'_append_eq_right

theorem field_dp4_destination (op sh : BitVec 5) (m d : LoReg) : field (op ++ sh ++ m ++ d) 0 3 = d :=
  BitVec.extractLsb'_append_eq_right

theorem decodeHalf_lslImm (d m : LoReg) (sh : BitVec 5) :
    decodeHalf (0b00000#5 ++ sh ++ m ++ d) = .lslImm d m sh := by
  rw [decodeHalf, field_dp4_opcode, field_dp4_amount, field_dp4_source, field_dp4_destination]
  rfl

theorem decodeHalf_lsrImm (d m : LoReg) (sh : BitVec 5) :
    decodeHalf (0b00001#5 ++ sh ++ m ++ d) = .lsrImm d m sh := by
  rw [decodeHalf, field_dp4_opcode, field_dp4_amount, field_dp4_source, field_dp4_destination]
  rfl

theorem decodeHalf_asrImm (d m : LoReg) (sh : BitVec 5) :
    decodeHalf (0b00010#5 ++ sh ++ m ++ d) = .asrImm d m sh := by
  rw [decodeHalf, field_dp4_opcode, field_dp4_amount, field_dp4_source, field_dp4_destination]
  rfl

/-! DP5: a 4-bit code and two registers. -/

/-- The instruction of DP5 with the code `insn[9:6]` (R89). -/
def dp5Instr (op : BitVec 4) (d m : LoReg) : Instr :=
  match op.toNat with
  | 0 => .andReg d m
  | 1 => .eorReg d m
  | 2 => .lslReg d m
  | 3 => .lsrReg d m
  | 4 => .asrReg d m
  | 5 => .adc d m
  | 6 => .sbc d m
  | 7 => .rorReg d m
  | 8 => .tst d m
  | 9 => .neg d m
  | 10 => .cmpReg d m
  | 11 => .cmn d m
  | 12 => .orr d m
  | 13 => .mul d m
  | 14 => .bic d m
  | _ => .mvn d m

theorem decodeHalf_dp5 (op : BitVec 4) (m d : LoReg) :
    decodeHalf (0b010000#6 ++ op ++ m ++ d) = dp5Instr op d m := by
  have hopcode {start len : Nat} (h : 6 ≤ start) :
      field (0b010000#6 ++ op ++ m ++ d) start len = (0b010000#6 ++ op).extractLsb' (start - 3 - 3) len :=
    (BitVec.extractLsb'_append_eq_of_le (by omega)).trans (BitVec.extractLsb'_append_eq_of_le (by omega))
  have hrow : field (0b010000#6 ++ op ++ m ++ d) 11 5 = 0b01000#5 :=
    (hopcode (by decide)).trans (BitVec.extractLsb'_append_eq_of_le (by decide))
  have hlo : bitAt (0b010000#6 ++ op ++ m ++ d) 10 = false :=
    BitVec.getLsbD_append.trans <| BitVec.getLsbD_append.trans BitVec.getLsbD_append
  have hop : field (0b010000#6 ++ op ++ m ++ d) 6 4 = op :=
    (hopcode (Nat.le_refl 6)).trans BitVec.extractLsb'_append_eq_right
  have hm : field (0b010000#6 ++ op ++ m ++ d) 3 3 = m :=
    (BitVec.extractLsb'_append_eq_of_le (Nat.le_refl 3)).trans BitVec.extractLsb'_append_eq_right
  have hd : field (0b010000#6 ++ op ++ m ++ d) 0 3 = d := BitVec.extractLsb'_append_eq_right
  rw [decodeHalf, hrow, hlo, decodeDp5, hop, hm, hd]
  rfl

/-! DP6: eight bits of opcode, two 4-bit registers, the top bit of the first standing apart (R88). -/

theorem field_dp6_opcode (op : BitVec 8) (d m : Reg) {start : Nat} (h : 8 ≤ start) (len : Nat) :
    field (op ++ d.extractLsb' 3 1 ++ m ++ d.extractLsb' 0 3) start len = op.extractLsb' (start - 3 - 4 - 1) len :=
  (BitVec.extractLsb'_append_eq_of_le (by omega)).trans <|
    (BitVec.extractLsb'_append_eq_of_le (by omega)).trans (BitVec.extractLsb'_append_eq_of_le (by omega))

theorem field_dp6_source (op : BitVec 8) (d m : Reg) :
    field (op ++ d.extractLsb' 3 1 ++ m ++ d.extractLsb' 0 3) 3 4 = m :=
  (BitVec.extractLsb'_append_eq_of_le (Nat.le_refl 3)).trans BitVec.extractLsb'_append_eq_right

theorem field_dp6_destination (op : BitVec 8) (d m : Reg) :
    field (op ++ d.extractLsb' 3 1 ++ m ++ d.extractLsb' 0 3) 7 1 ++
      field (op ++ d.extractLsb' 3 1 ++ m ++ d.extractLsb' 0 3) 0 3 = d := by
  have htop : field (op ++ d.extractLsb' 3 1 ++ m ++ d.extractLsb' 0 3) 7 1 = d.extractLsb' 3 1 :=
    (BitVec.extractLsb'_append_eq_of_le (by decide)).trans <|
      (BitVec.extractLsb'_append_eq_of_le (Nat.le_refl 4)).trans BitVec.extractLsb'_append_eq_right
  have hlow : field (op ++ d.extractLsb' 3 1 ++ m ++ d.extractLsb' 0 3) 0 3 = d.extractLsb' 0 3 :=
    BitVec.extractLsb'_append_eq_right
  rw [htop, hlow]
  exact (BitVec.extractLsb'_append_extractLsb'_eq_extractLsb' rfl).trans BitVec.extractLsb'_eq_self

/-- An opcode of row 010001 is decoded by its last two bits (R82, R90). -/
theorem decodeHalf_dp6 (op : BitVec 2) (d m : Reg) :
    decodeHalf (0b010001#6 ++ op ++ d.extractLsb' 3 1 ++ m ++ d.extractLsb' 0 3) =
      decodeHi (0b010001#6 ++ op ++ d.extractLsb' 3 1 ++ m ++ d.extractLsb' 0 3) := by
  have hrow : field (0b010001#6 ++ op ++ d.extractLsb' 3 1 ++ m ++ d.extractLsb' 0 3) 11 5 = 0b01000#5 :=
    (field_dp6_opcode _ d m (by decide) 5).trans (BitVec.extractLsb'_append_eq_of_le (by decide))
  have hhi : bitAt (0b010001#6 ++ op ++ d.extractLsb' 3 1 ++ m ++ d.extractLsb' 0 3) 10 = true :=
    BitVec.getLsbD_append.trans <| BitVec.getLsbD_append.trans <|
      BitVec.getLsbD_append.trans BitVec.getLsbD_append
  rw [decodeHalf, hrow, hhi]
  rfl

theorem decodeHalf_addHi (d m : Reg) :
    decodeHalf (0b01000100#8 ++ d.extractLsb' 3 1 ++ m ++ d.extractLsb' 0 3) = .addHi d m := by
  refine (decodeHalf_dp6 0b00#2 d m).trans ?_
  rw [decodeHi, field_dp6_source, field_dp6_destination, field_dp6_opcode _ d m (Nat.le_refl 8)]
  rfl

theorem decodeHalf_cmpHi (d m : Reg) :
    decodeHalf (0b01000101#8 ++ d.extractLsb' 3 1 ++ m ++ d.extractLsb' 0 3) = .cmpHi d m := by
  refine (decodeHalf_dp6 0b01#2 d m).trans ?_
  rw [decodeHi, field_dp6_source, field_dp6_destination, field_dp6_opcode _ d m (Nat.le_refl 8)]
  rfl

theorem decodeHalf_movHi (d m : Reg) :
    decodeHalf (0b01000110#8 ++ d.extractLsb' 3 1 ++ m ++ d.extractLsb' 0 3) = .movHi d m := by
  refine (decodeHalf_dp6 0b10#2 d m).trans ?_
  rw [decodeHi, field_dp6_source, field_dp6_destination, field_dp6_opcode _ d m (Nat.le_refl 8)]
  rfl

/-! DP8: nine bits of opcode and a 7-bit immediate; the last bit of the opcode tells SUB from ADD (R82). -/

theorem decodeHalf_dp8 (op : BitVec 1) (imm : BitVec 7) :
    decodeHalf (0b10110000#8 ++ op ++ imm) = if op.getLsbD 0 then .subSp imm else .addSp imm := by
  have hopcode {start len : Nat} (h : 8 ≤ start) :
      field (0b10110000#8 ++ op ++ imm) start len = (0b10110000#8).extractLsb' (start - 7 - 1) len :=
    (BitVec.extractLsb'_append_eq_of_le (by omega)).trans (BitVec.extractLsb'_append_eq_of_le (by omega))
  have hrow : field (0b10110000#8 ++ op ++ imm) 11 5 = 0b10110#5 := hopcode (by decide)
  have hsub : field (0b10110000#8 ++ op ++ imm) 8 3 = 0b000#3 := hopcode (Nat.le_refl 8)
  have hop : bitAt (0b10110000#8 ++ op ++ imm) 7 = op.getLsbD 0 :=
    BitVec.getLsbD_append.trans BitVec.getLsbD_append
  have himm : field (0b10110000#8 ++ op ++ imm) 0 7 = imm := BitVec.extractLsb'_append_eq_right
  rw [decodeHalf, hrow, decode10110, hsub, hop, himm]
  rfl

end Sys2Proof
end

section
/-! SUPPORT. Sums, differences and shifts of the model (00_scope.md R11, R12) in the plain-arithmetic terms of
Safety.lean, with their flags (42_data_processing.md R150). -/

namespace Sys2Proof.Machine

/-! Sums. -/

theorem addWithCarry_result (a b : Word) (c : Bool) :
    (addWithCarry a b c).result = a + b + BitVec.ofNat 32 c.toNat := by
  apply BitVec.eq_of_toNat_eq
  simp [addWithCarry]

/-- An integer does not survive 32 bits exactly when it is outside their signed range. -/
theorem toInt_ofInt_ne_iff (x : Int) : (BitVec.ofInt 32 x).toInt ≠ x ↔ x < -2 ^ 31 ∨ 2 ^ 31 ≤ x := by
  rw [BitVec.toInt_ofInt, ne_eq, Int.bmod_eq_iff (by decide)]
  omega

/-- V of a sum: the signed sum is outside the signed range (R11). -/
theorem addWithCarry_overflow (a b : Word) (c : Bool) :
    (addWithCarry a b c).overflow =
      decide (a.toInt + b.toInt + c.toNat < -2 ^ 31 ∨ 2 ^ 31 ≤ a.toInt + b.toInt + c.toNat) := by
  have hresult : (addWithCarry a b c).result = BitVec.ofInt 32 (a.toInt + b.toInt + c.toNat) := by
    rw [addWithCarry_result, BitVec.ofInt_add, BitVec.ofInt_add, BitVec.ofInt_toInt, BitVec.ofInt_toInt,
      BitVec.ofInt_natCast]
  refine (decide_eq_decide.mpr ?_ : decide ((addWithCarry a b c).result.toInt ≠ _) = _)
  rw [hresult]
  exact toInt_ofInt_ne_iff _

theorem nzOf_of_msb {p : PSR} {r : Word} (hn : p.n = r.msb) (hz : p.z = decide (r = 0#32)) : NZof p r :=
  ⟨hn.trans r.msb_eq_getLsbD_last, hz⟩

theorem addFlags_withSum (p : PSR) (a b : Word) (c : Bool) :
    AddFlags (p.withSum (addWithCarry a b c)) a b c.toNat := by
  refine ⟨?nz, rfl, addWithCarry_overflow a b c⟩
  rw [← addWithCarry_result]
  exact nzOf_of_msb rfl rfl

/-! Differences: `a - b - (1 - c)` is `a + NOT(b) + c` (R11). -/

/-- The complement of a signed word, as an integer. -/
theorem toInt_not_eq (b : Word) : (~~~b).toInt = -b.toInt - 1 := by
  have hb := b.isLt
  rw [BitVec.toInt_not, Int.bmod_eq_iff (by decide), BitVec.toInt_eq_toNat_cond]
  split
  · omega
  · omega

theorem add_not_add_carry (a b : Word) (c : Bool) :
    a + ~~~b + BitVec.ofNat 32 c.toNat = a - b - BitVec.ofNat 32 (!c).toNat := by
  cases c with
  | false => simp only [Bool.toNat_false, Bool.not_false, Bool.toNat_true]; bv_omega
  | true => simp only [Bool.toNat_false, Bool.not_true, Bool.toNat_true]; bv_omega

/-- The flags of `a + NOT(b) + c` are those of the subtraction: carry means no borrow. -/
theorem subFlags_of_addFlags {p : PSR} {a b : Word} {c : Bool} (h : AddFlags p a (~~~b) c.toNat) :
    SubFlags p a b (!c).toNat := by
  obtain ⟨hnz, hc, hv⟩ := h
  have hborrow : (!c).toNat + c.toNat = 1 := by cases c <;> rfl
  refine ⟨add_not_add_carry a b c ▸ hnz, hc.trans (decide_eq_decide.mpr ?carry),
    hv.trans (decide_eq_decide.mpr ?overflow)⟩
  case carry =>
    have hb := b.isLt
    rw [BitVec.toNat_not]
    omega
  case overflow =>
    rw [toInt_not_eq]
    omega

/-! Shifts. -/

theorem shiftedLeft_eq (v : Word) (n : Nat) : shiftedLeft v n = v <<< n := by
  apply BitVec.eq_of_toNat_eq
  simp [shiftedLeft, Nat.shiftLeft_eq]

theorem shiftedRight_eq (v : Word) (n : Nat) : shiftedRight v n = v >>> n := by
  apply BitVec.eq_of_toNat_eq
  have hlt : v.toNat / 2 ^ n < 2 ^ 32 := (Nat.div_le_self _ _).trans_lt v.isLt
  rw [shiftedRight, BitVec.toNat_ofNat, Nat.mod_eq_of_lt hlt, BitVec.toNat_ushiftRight, Nat.shiftRight_eq_div_pow]

theorem shiftedRightSigned_eq (v : Word) (n : Nat) : shiftedRightSigned v n = v.sshiftRight n := by
  rw [BitVec.sshiftRight_eq, Int.shiftRight_eq_div_pow, shiftedRightSigned,
    Int.fdiv_eq_ediv_of_nonneg _ (by positivity)]
  norm_cast

/-- A signed right shift by the width or more leaves copies of the sign. -/
theorem sshiftRight_eq_of_le (v : Word) {n : Nat} (hn : 32 ≤ n) :
    v.sshiftRight n = if v.getLsbD 31 then 0xFFFFFFFF#32 else 0#32 := by
  have hmsb : v.msb = v.getLsbD 31 := v.msb_eq_getLsbD_last
  rw [← hmsb]
  split
  · next h => rw [BitVec.sshiftRight_eq_of_msb_true h, BitVec.ushiftRight_eq_zero hn]; rfl
  · next h => rw [BitVec.sshiftRight_eq_of_msb_false (Bool.eq_false_iff.mpr h), BitVec.ushiftRight_eq_zero hn]

/-- A shift given by its value and its carry-out for amounts of at least 1. -/
theorem shiftBy_eq {op : Word → Nat → Word × Bool} {v r : Word} {n : Nat} {b : Bool} (hzero : n = 0 → r = v)
    (hop : n ≠ 0 → op v n = (r, b)) : shiftBy op v n = ⟨r, if n = 0 then none else some b⟩ := by
  unfold shiftBy
  split
  · next h => rw [hzero h]
  · next h => rw [hop h]

theorem shiftBy_lslC (v : Word) (n : Nat) :
    shiftBy lslC v n = ⟨shiftedLeft v n, if n = 0 then none else some (leftCarry v n)⟩ := by
  rw [shiftedLeft_eq]
  refine shiftBy_eq (fun h => h ▸ BitVec.shiftLeft_zero v) fun _ => ?_
  unfold lslC leftCarry
  split
  · next hlt => rw [decide_eq_true hlt.le, Bool.true_and]
  · next hge =>
    rw [BitVec.shiftLeft_eq_zero (Nat.not_lt.mp hge)]
    split
    · next heq => rw [heq]; rfl
    · next hne => rw [decide_eq_false (by omega), Bool.false_and]

theorem shiftBy_lsrC (v : Word) (n : Nat) :
    shiftBy lsrC v n = ⟨shiftedRight v n, if n = 0 then none else some (v.getLsbD (n - 1))⟩ := by
  rw [shiftedRight_eq]
  refine shiftBy_eq (fun h => h ▸ BitVec.ushiftRight_zero v) fun _ => ?_
  unfold lsrC
  split
  · rfl
  · next hge =>
    rw [BitVec.ushiftRight_eq_zero (Nat.not_lt.mp hge)]
    split
    · next heq => rw [heq]
    · next hne => rw [BitVec.getLsbD_of_ge v _ (by omega)]

theorem shiftBy_asrC (v : Word) (n : Nat) :
    shiftBy asrC v n = ⟨shiftedRightSigned v n, if n = 0 then none else some (v.getLsbD (min n 32 - 1))⟩ := by
  rw [shiftedRightSigned_eq]
  refine shiftBy_eq (fun h => h ▸ BitVec.sshiftRight_zero) fun _ => ?_
  unfold asrC
  split
  · next hlt => rw [Nat.min_eq_left hlt.le]
  · next hge => rw [sshiftRight_eq_of_le v (Nat.not_lt.mp hge), Nat.min_eq_right (Nat.not_lt.mp hge)]

theorem shiftBy_rorC (v : Word) (n : Nat) :
    shiftBy rorC v n = ⟨v.rotateRight n, if n = 0 then none else some ((v.rotateRight n).getLsbD 31)⟩ := by
  have hturn (h : n % 32 = 0) : v.rotateRight n = v := by
    rw [BitVec.rotateRight_def, h, BitVec.ushiftRight_zero, BitVec.shiftLeft_eq_zero (Nat.le_refl 32), BitVec.or_zero]
  refine shiftBy_eq (fun h => hturn (by rw [h])) fun _ => ?_
  simp only [rorC]
  split
  · next h => rw [hturn h]
  · next h =>
    have hbit : (v.rotateRight n).getLsbD 31 = v.getLsbD (n % 32 - 1) := by
      rw [BitVec.getLsbD_rotateRight, decide_eq_false (by omega), cond_false, decide_eq_true (by decide),
        Bool.true_and]
      congr 1
      omega
    rw [hbit, BitVec.rotateRight_def]

/-- The amount of LSR and ASR by an immediate is from 1 to 32 (R160, R161). -/
theorem immShiftAmount_range (sh : BitVec 5) : immShiftAmount sh ≠ 0 ∧ immShiftAmount sh ≤ 32 := by
  revert sh
  decide

/-! Immediates. -/

theorem zext_eq {w : Nat} (x : BitVec w) : zext x = BitVec.ofNat 32 x.toNat := (BitVec.ofNat_toNat 32 x).symm

theorem zext4_eq {w : Nat} (x : BitVec w) : zext4 x = BitVec.ofNat 32 (4 * x.toNat) := by
  apply BitVec.eq_of_toNat_eq
  simp [zext4, Nat.shiftLeft_eq, Nat.mul_comm]

/-- Clearing the last two bits rounds down to a word (R26). -/
theorem clearBits10_eq (v : Word) : clearBits10 v = BitVec.ofNat 32 (v.toNat / 4 * 4) := by
  have hbits : ∀ i < 32, (0xFFFFFFFC#32).getLsbD i = decide (2 ≤ i) := by decide
  have hmask : clearBits10 v = v >>> 2 <<< 2 := by
    refine BitVec.eq_of_getLsbD_eq fun i hi => ?_
    by_cases h : 2 ≤ i
    · simp [clearBits10, hbits i hi, h, hi, Nat.add_sub_of_le h, Nat.not_lt.mpr h]
    · simp [clearBits10, hbits i hi, h, Nat.not_le.mp h]
  rw [hmask]
  apply BitVec.eq_of_toNat_eq
  simp [Nat.shiftLeft_eq, Nat.shiftRight_eq_div_pow]

end Sys2Proof.Machine
end

section
/-! SUPPORT. What the data processing instructions change (42_data_processing.md R150): each writes one register or
none and the flags, and moves on; and the statements of 42_data_processing.md but MUL's assembled. -/

namespace Sys2Proof.Machine

/-! One register and the flags written, then on to the next instruction. -/

theorem changesOnly_setPhys (s : State) (p : PhysReg) (v : Word) : ChangesOnly [p] s (s.setPhys p v) := by
  refine ⟨⟨fun q hq => ?regs, (changesOnly_self s).1.2⟩, (changesOnly_self s).2⟩
  exact RegFile.get_set_ne s.regs (List.ne_of_not_mem_cons hq) v

/-- Two status registers that differ in the condition flags alone. -/
def SameButFlags (p q : PSR) : Prop :=
  q.reserved = p.reserved ∧ q.i = p.i ∧ q.f = p.f ∧ q.t = p.t ∧ q.m = p.m

theorem sameButFlags_withSum (p : PSR) (r : SumResult) : SameButFlags p (p.withSum r) := ⟨rfl, rfl, rfl, rfl, rfl⟩

theorem sameButFlags_withNZ (p : PSR) (r : Word) : SameButFlags p (p.withNZ r) := ⟨rfl, rfl, rfl, rfl, rfl⟩

theorem sameButFlags_withShift (p : PSR) (r : ShiftResult) : SameButFlags p (p.withShift r) :=
  ⟨p.withShift_reserved r, p.withShift_i r, p.withShift_f r, p.withShift_t r, p.withShift_m r⟩

theorem movesOn_of_sameButFlags {rs : List PhysReg} {s t : State} {p : PSR} (h : ChangesOnly rs s t)
    (hp : SameButFlags s.cpsr p) : MovesOn rs s ((t.setCpsr p).setPc (s.pc + 2#32)) := by
  obtain ⟨⟨hregs, hsys, -, hended⟩, -, hmem⟩ := h
  obtain ⟨hspsr, -, -, -, -, hrest⟩ := hsys
  obtain ⟨hreserved, hi, hf, ht, hm⟩ := hp
  exact ⟨⟨hregs, ⟨hspsr, hreserved, hi, hf, hm, hrest⟩, ht, hended⟩, hmem, rfl⟩

/-! The shared ways of writing a result, each in the term its statements are made in. -/

section
variable {i : Instr} {s : State} {d : LoReg}

theorem adds_of_exec {a b : Word} {c : Bool} (htop : NotTop s) (h : exec i s = writeSum d (addWithCarry a b c) s) :
    Adds i s d a b c.toNat :=
  ⟨_, h.trans (advance_eq htop), (s.lo_setLo_same d _).trans (addWithCarry_result a b c),
    addFlags_withSum s.cpsr a b c, movesOn_of_sameButFlags (changesOnly_setPhys s _ _) (sameButFlags_withSum _ _)⟩

/-- A sum with a complement is a difference (R11). -/
theorem subtracts_of_exec {a b : Word} {c : Bool} (htop : NotTop s)
    (h : exec i s = writeSum d (addWithCarry a (~~~b) c) s) : Subtracts i s d a b (!c).toNat := by
  obtain ⟨t, ht, hlo, hflags, hmoves⟩ := adds_of_exec htop h
  exact ⟨t, ht, hlo.trans (add_not_add_carry a b c), subFlags_of_addFlags hflags, hmoves⟩

theorem compareSum_completes {a b : Word} {c : Bool} (htop : NotTop s)
    (h : exec i s = compareSum (addWithCarry a b c) s) :
    ∃ t, exec i s = .next t ∧ AddFlags t.cpsr a b c.toNat ∧ MovesOn [] s t :=
  ⟨_, h.trans (advance_eq htop), addFlags_withSum s.cpsr a b c,
    movesOn_of_sameButFlags (changesOnly_self s) (sameButFlags_withSum _ _)⟩

theorem compares_of_exec {a b : Word} (htop : NotTop s) (h : exec i s = compareSum (differenceOf a b) s) :
    Compares i s a b := by
  obtain ⟨t, ht, hflags, hmoves⟩ := compareSum_completes htop h
  exact ⟨t, ht, subFlags_of_addFlags (c := true) hflags, hmoves⟩

theorem writesLogic_of_exec {r : Word} (htop : NotTop s) (h : exec i s = writeLogic d r s) : WritesLogic i s d r :=
  ⟨_, h.trans (advance_eq htop), s.lo_setLo_same d r, nzOf_of_msb rfl rfl, rfl, rfl,
    movesOn_of_sameButFlags (changesOnly_setPhys s _ _) (sameButFlags_withNZ _ _)⟩

theorem compareLogic_completes {r : Word} (htop : NotTop s) (h : exec i s = compareLogic r s) :
    ∃ t, exec i s = .next t ∧ NZof t.cpsr r ∧ t.cpsr.c = s.cpsr.c ∧ t.cpsr.v = s.cpsr.v ∧ MovesOn [] s t :=
  ⟨_, h.trans (advance_eq htop), nzOf_of_msb rfl rfl, rfl, rfl,
    movesOn_of_sameButFlags (changesOnly_self s) (sameButFlags_withNZ _ _)⟩

theorem writesShift_of_exec {r : ShiftResult} (htop : NotTop s) (h : exec i s = writeShift d r s) :
    WritesShift i s d r.result (r.carry.getD s.cpsr.c) :=
  ⟨_, h.trans (advance_eq htop), s.lo_setLo_same d r.result,
    nzOf_of_msb (s.cpsr.withShift_n r) (s.cpsr.withShift_z r), s.cpsr.withShift_c r, s.cpsr.withShift_v r,
    movesOn_of_sameButFlags (changesOnly_setPhys s _ _) (sameButFlags_withShift _ _)⟩

/-- A shift whose amount 0 has no carry-out keeps C there (R150). -/
theorem writesShift_of_shiftBy {op : Word → Nat → Word × Bool} {v r : Word} {n : Nat} {b : Bool} (htop : NotTop s)
    (h : exec i s = writeShift d (shiftBy op v n) s)
    (hop : shiftBy op v n = ⟨r, if n = 0 then none else some b⟩) :
    WritesShift i s d r (if n = 0 then s.cpsr.c else b) := by
  have hwrites := writesShift_of_exec htop (hop ▸ h)
  have hcarry : (if n = 0 then none else some b : Option Bool).getD s.cpsr.c = if n = 0 then s.cpsr.c else b := by
    split
    · rfl
    · rfl
  exact hcarry ▸ hwrites

theorem writesOnly_of_exec {p : PhysReg} {r : Word} (htop : NotTop s) (h : exec i s = advance (s.setPhys p r)) :
    WritesOnly i s p r := by
  obtain ⟨hframe, hflags, hmem⟩ := changesOnly_setPhys s p r
  exact ⟨_, h.trans (advance_eq (s := s.setPhys p r) htop), s.regs.get_set_same p r, hflags, hframe, hmem, rfl⟩

end

/-! Arithmetic. -/

/-- Settles O25: the four are sums or differences of a register with a register or an immediate. -/
theorem addSubtractThreeOperands : Obligations.AddSubtractThreeOperands := by
  intro s d n m imm
  refine ⟨decodeHalf_dp1 0b00#2 m n d, decodeHalf_dp1 0b01#2 m n d, decodeHalf_dp1 0b10#2 imm n d,
    decodeHalf_dp1 0b11#2 imm n d, fun htop => ?_⟩
  rw [← zext_eq]
  exact ⟨adds_of_exec (c := false) htop rfl, subtracts_of_exec (c := true) htop rfl,
    adds_of_exec (c := false) htop rfl, subtracts_of_exec (c := true) htop rfl⟩

/-- Settles O26: a result without carry, a comparison, a sum and a difference, each with an immediate. -/
theorem immediateEightBit : Obligations.ImmediateEightBit := by
  intro s d imm
  refine ⟨decodeHalf_movImm8 d imm, decodeHalf_cmpImm8 d imm, decodeHalf_addImm8 d imm, decodeHalf_subImm8 d imm,
    fun htop => ?_⟩
  rw [← zext_eq]
  exact ⟨writesLogic_of_exec htop rfl, compares_of_exec htop rfl, adds_of_exec (c := false) htop rfl,
    subtracts_of_exec (c := true) htop rfl⟩

/-- Settles O30: a sum with C, and a sum with the complement and C. -/
theorem carryArithmetic : Obligations.CarryArithmetic := by
  intro s d m
  refine ⟨decodeHalf_dp5 0b0101#4 m d, decodeHalf_dp5 0b0110#4 m d, fun htop => ?_⟩
  have hcarry : ∀ c : Bool, c.toNat = if c then 1 else 0 := by decide
  have hborrow : ∀ c : Bool, (!c).toNat = if c then 0 else 1 := by decide
  rw [← hcarry, ← hborrow]
  exact ⟨adds_of_exec htop rfl, subtracts_of_exec htop rfl⟩

/-- Settles O31: a difference from 0, and the flags of a difference and of a sum. -/
theorem negateAndCompare : Obligations.NegateAndCompare := by
  intro s d m
  exact ⟨decodeHalf_dp5 0b1001#4 m d, decodeHalf_dp5 0b1010#4 m d, decodeHalf_dp5 0b1011#4 m d, fun htop =>
    ⟨subtracts_of_exec (c := true) htop rfl, compares_of_exec htop rfl, compareSum_completes (c := false) htop rfl⟩⟩

/-! Shifts. -/

/-- Settles O27: LSL by its field, LSR and ASR by an amount from 1 to 32. -/
theorem shiftsByImmediate : Obligations.ShiftsByImmediate := by
  intro s d m sh
  refine ⟨decodeHalf_lslImm d m sh, decodeHalf_lsrImm d m sh, decodeHalf_asrImm d m sh, fun htop => ?_⟩
  obtain ⟨hne, hle⟩ := immShiftAmount_range sh
  have hlsl := writesShift_of_shiftBy (i := .lslImm d m sh) htop rfl (shiftBy_lslC (s.lo m) sh.toNat)
  have hlsr := writesShift_of_shiftBy (i := .lsrImm d m sh) htop rfl (shiftBy_lsrC (s.lo m) (immShiftAmount sh))
  have hasr := writesShift_of_shiftBy (i := .asrImm d m sh) htop rfl (shiftBy_asrC (s.lo m) (immShiftAmount sh))
  rw [if_neg hne] at hlsr hasr
  rw [Nat.min_eq_left hle] at hasr
  have hzero : sh.toNat = 0 ↔ sh = 0#5 := BitVec.toNat_inj (y := 0#5)
  simp only [hzero] at hlsl
  exact ⟨hlsl, hlsr, hasr⟩

/-- Settles O28: the four shifts by the low byte of Rs. -/
theorem shiftsByRegister : Obligations.ShiftsByRegister := by
  rintro s d r v n rfl rfl
  have hamount : (s.lo r).toNat % 256 = regShiftAmount s r := by
    rw [regShiftAmount, BitVec.extractLsb'_toNat, Nat.shiftRight_zero]
  rw [hamount]
  exact ⟨decodeHalf_dp5 0b0010#4 r d, decodeHalf_dp5 0b0011#4 r d, decodeHalf_dp5 0b0100#4 r d,
    decodeHalf_dp5 0b0111#4 r d, fun htop =>
      ⟨writesShift_of_shiftBy htop rfl (shiftBy_lslC _ _), writesShift_of_shiftBy htop rfl (shiftBy_lsrC _ _),
        writesShift_of_shiftBy htop rfl (shiftBy_asrC _ _), writesShift_of_shiftBy htop rfl (shiftBy_rorC _ _)⟩⟩

/-! Bitwise operations. -/

/-- Settles O29: the results are the words' own bitwise operations. -/
theorem bitwiseOperations : Obligations.BitwiseOperations := by
  intro s d m
  refine ⟨decodeHalf_dp5 0b0000#4 m d, decodeHalf_dp5 0b0001#4 m d, decodeHalf_dp5 0b1100#4 m d,
    decodeHalf_dp5 0b1110#4 m d, decodeHalf_dp5 0b1111#4 m d, decodeHalf_dp5 0b1000#4 m d, fun htop => ?_⟩
  refine ⟨s.lo d &&& s.lo m, s.lo d ^^^ s.lo m, s.lo d ||| s.lo m, s.lo d &&& ~~~s.lo m, ~~~s.lo m, fun k hk => ?bits,
    writesLogic_of_exec htop rfl, writesLogic_of_exec htop rfl, writesLogic_of_exec htop rfl,
    writesLogic_of_exec htop rfl, writesLogic_of_exec htop rfl, compareLogic_completes htop rfl⟩
  have hnot : (~~~s.lo m).getLsbD k = !(s.lo m).getLsbD k := by
    rw [BitVec.getLsbD_not, decide_eq_true hk, Bool.true_and]
  exact ⟨BitVec.getLsbD_and, BitVec.getLsbD_xor, BitVec.getLsbD_or, BitVec.getLsbD_and.trans (by rw [hnot]), hnot⟩

/-! Hi registers. -/

theorem reg_of_physOf {s : State} {i : Reg} {p : PhysReg} (h : physOf s.cpsr.m i = some p) :
    s.reg i = s.regs.get p := by
  rw [State.reg, h]

theorem writeReg_of_physOf {s : State} {d : Reg} {p : PhysReg} (h : physOf s.cpsr.m d = some p) (v : Word) :
    writeReg d v s = advance (s.setPhys p v) := by
  rw [writeReg, h]

theorem writeReg_pc (s : State) (v : Word) : writeReg 15#4 v s = .next (s.setPc (v &&& 0xFFFFFFFE#32)) := by
  rw [writeReg, (physOf_eq_none s.cpsr.m 15#4).mpr rfl, clearBit0]

theorem not_bothLo {d m : Reg} (h : 8 ≤ d.toNat ∨ 8 ≤ m.toNat) : ¬ (isLo d && isLo m) = true := by
  rw [Bool.and_eq_true, isLo_iff, isLo_iff]
  omega

theorem exec_addHi_of_hi {d m : Reg} (h : 8 ≤ d.toNat ∨ 8 ≤ m.toNat) (s : State) :
    exec (.addHi d m) s = writeReg d (s.reg d + s.reg m) s := if_neg (not_bothLo h)

theorem exec_movHi_of_hi {d m : Reg} (h : 8 ≤ d.toNat ∨ 8 ≤ m.toNat) (s : State) :
    exec (.movHi d m) s = writeReg d (s.reg m) s := if_neg (not_bothLo h)

theorem exec_cmpHi_of_hi {n m : Reg} (h : 8 ≤ n.toNat ∨ 8 ≤ m.toNat) (hn : n ≠ 15#4) (hm : m ≠ 15#4) (s : State) :
    exec (.cmpHi n m) s = compareSum (differenceOf (s.reg n) (s.reg m)) s :=
  (if_neg (not_bothLo h)).trans (if_neg (not_or.mpr ⟨hn, hm⟩))

/-- Settles O33: a write of a physical register, or a branch when the destination is r15. -/
theorem hiRegisterAddAndMove : Obligations.HiRegisterAddAndMove := by
  intro s d m
  refine ⟨decodeHalf_addHi d m, decodeHalf_movHi d m, reg_pc s, fun hd hm => ?bothLo, fun p hhi hp htop => ?register,
    fun hpc => ?branch⟩
  case bothLo => exact ⟨execAddHi_bothLo hd hm s, execMovHi_bothLo hd hm s⟩
  case register =>
    rw [← reg_of_physOf hp]
    exact ⟨writesOnly_of_exec htop ((exec_addHi_of_hi hhi s).trans (writeReg_of_physOf hp _)),
      writesOnly_of_exec htop ((exec_movHi_of_hi hhi s).trans (writeReg_of_physOf hp _))⟩
  case branch =>
    subst hpc
    have hhi : 8 ≤ (15#4 : Reg).toNat ∨ 8 ≤ m.toNat := .inl (by decide)
    rw [← reg_pc]
    exact ⟨branchesTo_of_exec ((exec_addHi_of_hi hhi s).trans (writeReg_pc s _)),
      branchesTo_of_exec ((exec_movHi_of_hi hhi s).trans (writeReg_pc s _))⟩

/-- Settles O34: the two refusals, and otherwise the flags of the difference. -/
theorem hiRegisterCompare : Obligations.HiRegisterCompare := by
  intro s n m
  exact ⟨decodeHalf_cmpHi n m, fun hn hm => execCmpHi_bothLo hn hm s, fun hhi hpc => execCmpHi_pc hhi hpc s,
    fun hhi hn hm htop => compares_of_exec htop (exec_cmpHi_of_hi hhi hn hm s)⟩

/-! Address generation and the stack pointer. -/

/-- The base of R26 and a word count, as one number. -/
theorem pcBase_add_zext4 (s : State) (imm : BitVec 8) :
    pcBase s + zext4 imm = BitVec.ofNat 32 ((s.pc + 4#32).toNat / 4 * 4 + 4 * imm.toNat) := by
  rw [pcBase, clearBits10_eq, zext4_eq, ← BitVec.ofNat_add, State.pcValue]

/-- Settles O35: each writes one register with a base and a word count. -/
theorem addressGenerationAndStackPointer : Obligations.AddressGenerationAndStackPointer := by
  intro s d imm imm7
  refine ⟨decodeHalf_addPc d imm, decodeHalf_addRdSp d imm, decodeHalf_dp8 0#1 imm7, decodeHalf_dp8 1#1 imm7,
    fun htop => ?_⟩
  rw [← pcBase_add_zext4, ← zext4_eq, ← zext4_eq]
  exact ⟨writesOnly_of_exec htop rfl, writesOnly_of_exec htop rfl, writesOnly_of_exec htop rfl,
    writesOnly_of_exec htop rfl⟩

end Sys2Proof.Machine
end

section
/-! SUPPORT. The decoding of the single transfer formats LS1 to LS5 (30_encoding.md R85, R89, R90). -/

namespace Sys2Proof

/-! LS1, LS2: five bits of opcode, a 5-bit offset, two registers, as in DP4. -/

/-- The instruction of LS1 or LS2 with the opcode `insn[15:11]`, from 01100 to 10001 (R85). -/
def ls1Instr (op : BitVec 5) (d n : LoReg) (off : BitVec 5) : Instr :=
  match op.toNat with
  | 12 => .strImm d n off
  | 13 => .ldrImm d n off
  | 14 => .strbImm d n off
  | 15 => .ldrbImm d n off
  | 16 => .strhImm d n off
  | _ => .ldrhImm d n off

theorem decodeHalf_ls1 {op : BitVec 5} (h : 12 ≤ op.toNat ∧ op.toNat ≤ 17) (off : BitVec 5) (n d : LoReg) :
    decodeHalf (op ++ off ++ n ++ d) = ls1Instr op d n off := by
  rw [decodeHalf, field_dp4_opcode, field_dp4_amount, field_dp4_source, field_dp4_destination, ls1Instr]
  obtain ⟨hlo, hhi⟩ := h
  generalize op.toNat = row at hlo hhi
  interval_cases row <;> rfl

/-! LS3: a 3-bit code and three registers. -/

/-- The instruction of LS3 with the code `insn[11:9]` (R89). -/
def ls3Instr (op : BitVec 3) (d n m : LoReg) : Instr :=
  match op.toNat with
  | 0 => .strReg d n m
  | 1 => .strhReg d n m
  | 2 => .strbReg d n m
  | 3 => .ldrsbReg d n m
  | 4 => .ldrReg d n m
  | 5 => .ldrhReg d n m
  | 6 => .ldrbReg d n m
  | _ => .ldrshReg d n m

theorem decodeHalf_row0101 {w : Half} (h : field w 11 5 = 0b01010#5 ∨ field w 11 5 = 0b01011#5) :
    decodeHalf w = decodeLs3 w := by
  unfold decodeHalf
  rcases h with h | h
  · rw [h]; rfl
  · rw [h]; rfl

theorem decodeHalf_ls3 (op m n d : BitVec 3) :
    decodeHalf (0b0101#4 ++ op ++ m ++ n ++ d) = ls3Instr op d n m := by
  have hopcode {start len : Nat} (h : 9 ≤ start) :
      field (0b0101#4 ++ op ++ m ++ n ++ d) start len = (0b0101#4 ++ op).extractLsb' (start - 3 - 3 - 3) len :=
    (BitVec.extractLsb'_append_eq_of_le (by omega)).trans <|
      (BitVec.extractLsb'_append_eq_of_le (by omega)).trans (BitVec.extractLsb'_append_eq_of_le (by omega))
  have hop : field (0b0101#4 ++ op ++ m ++ n ++ d) 9 3 = op :=
    (hopcode (Nat.le_refl 9)).trans BitVec.extractLsb'_append_eq_right
  have hm : field (0b0101#4 ++ op ++ m ++ n ++ d) 6 3 = m :=
    (BitVec.extractLsb'_append_eq_of_le (by decide)).trans <|
      (BitVec.extractLsb'_append_eq_of_le (Nat.le_refl 3)).trans BitVec.extractLsb'_append_eq_right
  have hn : field (0b0101#4 ++ op ++ m ++ n ++ d) 3 3 = n :=
    (BitVec.extractLsb'_append_eq_of_le (Nat.le_refl 3)).trans BitVec.extractLsb'_append_eq_right
  have hd : field (0b0101#4 ++ op ++ m ++ n ++ d) 0 3 = d := BitVec.extractLsb'_append_eq_right
  have hrow : field (0b0101#4 ++ op ++ m ++ n ++ d) 11 5 = (0b0101#4 ++ op).extractLsb' 2 5 := hopcode (by decide)
  have htop : ∀ c : BitVec 3, (0b0101#4 ++ c).extractLsb' 2 5 = 0b01010#5 ∨
      (0b0101#4 ++ c).extractLsb' 2 5 = 0b01011#5 := by
    decide
  rw [decodeHalf_row0101 (hrow ▸ htop op), decodeLs3, hop, hm, hn, hd]
  rfl

/-! LS4, LS5: five bits of opcode, a register, an 8-bit offset, as in DP3. -/

theorem decodeHalf_ldrPc (d : LoReg) (off : BitVec 8) : decodeHalf (0b01001#5 ++ d ++ off) = .ldrPc d off := by
  rw [decodeHalf, field_dp3_opcode, field_dp3_register, field_dp3_immediate]
  rfl

theorem decodeHalf_strSp (d : LoReg) (off : BitVec 8) : decodeHalf (0b10010#5 ++ d ++ off) = .strSp d off := by
  rw [decodeHalf, field_dp3_opcode, field_dp3_register, field_dp3_immediate]
  rfl

theorem decodeHalf_ldrSp (d : LoReg) (off : BitVec 8) : decodeHalf (0b10011#5 ++ d ++ off) = .ldrSp d off := by
  rw [decodeHalf, field_dp3_opcode, field_dp3_register, field_dp3_immediate]
  rfl

end Sys2Proof
end

section
/-! SUPPORT. What single transfers read and write (20_memory.md R52, R55, R56, R58) in the plain-arithmetic terms of
Safety.lean: the value a load gives, the bytes a store leaves, and the effective addresses (43_load_store_single.md
R220). -/

namespace Sys2Proof.Machine

/-! Values read: the sum of the bytes (R52). -/

theorem bytesValue_one (e : Endian) (m : Memory) (a : Word) :
    bytesValue e m a 1 = (readByte m a.toNat).toNat * 2 ^ (8 * bytePlace e 1 0) := by
  simp only [bytesValue, List.range_one, List.map_cons, List.map_nil, List.sum_cons, List.sum_nil, BitVec.add_zero,
    add_zero]

theorem bytesValue_two (e : Endian) (m : Memory) (a : Word) :
    bytesValue e m a 2 =
      (readByte m a.toNat).toNat * 2 ^ (8 * bytePlace e 2 0) +
        (readByte m (a + 1#32).toNat).toNat * 2 ^ (8 * bytePlace e 2 1) := by
  have hrange : List.range 2 = [0, 1] := rfl
  simp only [bytesValue, hrange, List.map_cons, List.map_nil, List.sum_cons, List.sum_nil, BitVec.add_zero, add_zero]

theorem toNat_readByte (e : Endian) (m : Memory) (a : Word) : (readByte m a.toNat).toNat = bytesValue e m a 1 := by
  rw [bytesValue_one]
  cases e <;> simp only [bytePlace, Nat.mul_zero, Nat.sub_self, pow_zero, Nat.mul_one]

theorem toNat_readHalf (e : Endian) (m : Memory) (a : Word) : (readHalf e m a).toNat = bytesValue e m a 2 := by
  rw [bytesValue_two]
  cases e with
  | little =>
    rw [readHalf, joinHalf, toNat_append_add]
    simp only [bytePlace]
    ring
  | big =>
    rw [readHalf, joinHalf, toNat_append_add]
    simp only [bytePlace]
    ring

theorem loadValue_word (s : State) (a : Word) :
    loadValue s .word a = BitVec.ofNat 32 (bytesValue s.params.endian s.mem a 4) :=
  readWord_eq_bytesValue s.params.endian s.mem a

theorem loadValue_half (s : State) (a : Word) :
    loadValue s .half a = BitVec.ofNat 32 (bytesValue s.params.endian s.mem a 2) := by
  rw [← toNat_readHalf, BitVec.ofNat_toNat, loadValue]

theorem loadValue_byte (s : State) (a : Word) :
    loadValue s .byte a = BitVec.ofNat 32 (bytesValue s.params.endian s.mem a 1) := by
  rw [← toNat_readByte, BitVec.ofNat_toNat, loadValue]

theorem loadValue_signedHalf (s : State) (a : Word) :
    loadValue s .signedHalf a =
      BitVec.ofInt 32 (BitVec.ofNat 16 (bytesValue s.params.endian s.mem a 2)).toInt := by
  rw [← toNat_readHalf, BitVec.ofNat_toNat, BitVec.setWidth_eq, loadValue, BitVec.signExtend]

theorem loadValue_signedByte (s : State) (a : Word) :
    loadValue s .signedByte a =
      BitVec.ofInt 32 (BitVec.ofNat 8 (bytesValue s.params.endian s.mem a 1)).toInt := by
  rw [← toNat_readByte, BitVec.ofNat_toNat, BitVec.setWidth_eq, loadValue, BitVec.signExtend]

/-! Bytes written: each offset holds its byte of the value, and nothing outside the access changes (R52, R56). -/

/-- The offsets of one access name different bytes, where it wraps past address 0 too (R51). -/
theorem toNat_add_ofNat_inj (a : Word) {j k : Nat} (hj : j < 2 ^ 32) (hk : k < 2 ^ 32) :
    (a + BitVec.ofNat 32 j).toNat = (a + BitVec.ofNat 32 k).toNat ↔ j = k := by
  rw [BitVec.toNat_inj, BitVec.add_right_inj, ← BitVec.toNat_inj, BitVec.toNat_ofNat, BitVec.toNat_ofNat,
    Nat.mod_eq_of_lt hj, Nat.mod_eq_of_lt hk]

theorem toNat_add_ofNat_eq_self (a : Word) {k : Nat} (hk : k < 2 ^ 32) :
    (a + BitVec.ofNat 32 k).toNat = a.toNat ↔ k = 0 := by
  simpa only [BitVec.add_zero] using toNat_add_ofNat_inj a hk (k := 0) (by decide)

theorem readByte_writeOne_at {m : Memory} (h : m.wf = true) (e : Endian) (a v : Word) {k : Nat} (hk : k < 1) :
    readByte (writeOne m a v) (a + BitVec.ofNat 32 k).toNat = byteOf v (bytePlace e 1 k) := by
  obtain rfl : k = 0 := Nat.lt_one_iff.mp hk
  rw [readByte_writeOne h, BitVec.add_zero, if_pos rfl]
  cases e <;> rfl

theorem readByte_writeHalf_at {m : Memory} (h : m.wf = true) (e : Endian) (a v : Word) {k : Nat} (hk : k < 2) :
    readByte (writeHalf e m a v) (a + BitVec.ofNat 32 k).toNat = byteOf v (bytePlace e 2 k) := by
  have hk' : k < 2 ^ 32 := by omega
  rw [readByte_writeHalf h]
  simp only [toNat_add_ofNat_inj a hk' (k := 1) (by decide), toNat_add_ofNat_eq_self a hk']
  interval_cases k <;> cases e <;> rfl

theorem readByte_writeWord_at {m : Memory} (h : m.wf = true) (e : Endian) (a v : Word) {k : Nat} (hk : k < 4) :
    readByte (writeWord e m a v) (a + BitVec.ofNat 32 k).toNat = byteOf v (bytePlace e 4 k) := by
  have hk' : k < 2 ^ 32 := by omega
  rw [readByte_writeWord h]
  simp only [toNat_add_ofNat_inj a hk' (k := 3) (by decide), toNat_add_ofNat_inj a hk' (k := 2) (by decide),
    toNat_add_ofNat_inj a hk' (k := 1) (by decide), toNat_add_ofNat_eq_self a hk']
  interval_cases k <;> cases e <;> rfl

theorem readByte_writeHalf_other {m : Memory} (h : m.wf = true) (e : Endian) (a v : Word) {b : Nat}
    (hb : b ∉ byteAddrs a 2) : readByte (writeHalf e m a v) b = readByte m b := by
  have hne : ∀ j < 2, b ≠ (a + BitVec.ofNat 32 j).toNat := fun j hj he => hb (mem_byteAddrs.mpr ⟨j, hj, he⟩)
  have h0 : b ≠ a.toNat := by simpa using hne 0 (by omega)
  rw [readByte_writeHalf h, if_neg (hne 1 (by omega)), if_neg h0]

theorem readByte_writeOne_other {m : Memory} (h : m.wf = true) (a v : Word) {b : Nat} (hb : b ∉ byteAddrs a 1) :
    readByte (writeOne m a v) b = readByte m b := by
  rw [readByte_writeOne h, if_neg (by simpa [byteAddrs] using hb)]

theorem holdsBytes_storeValue {s : State} (h : s.mem.wf = true) (k : StoreKind) (a v : Word) :
    HoldsBytes s.params.endian (storeValue s k a v) a k.size v := by
  intro j hj
  cases k with
  | word => exact readByte_writeWord_at h _ a v hj
  | half => exact readByte_writeHalf_at h _ a v hj
  | byte => exact readByte_writeOne_at h _ a v hj

theorem memKeptOutside_storeValue {s : State} (h : s.mem.wf = true) (k : StoreKind) (a v : Word) :
    MemKeptOutside a k.size s (s.setMem (storeValue s k a v)) := by
  intro b hb
  cases k with
  | word => exact readByte_writeWord_other h _ a v hb
  | half => exact readByte_writeHalf_other h _ a v hb
  | byte => exact readByte_writeOne_other h a v hb

/-! Accesses that their checks let through. -/

section
variable {i : Instr} {s : State} {d : LoReg} {a : Word}

theorem writesOnly_of_loadLo {k : LoadKind} (htop : NotTop s) (h : exec i s = loadLo k d a s)
    (hacc : Accessible s .read a k.size) : WritesOnly i s (.lo d) (loadValue s k a) := by
  refine writesOnly_of_exec htop (h.trans ?_)
  rw [loadLo, checkAccess_granted_iff_accessible.mpr hacc, guarded, State.setLo]

theorem stores_of_storeLo {k : StoreKind} (htop : NotTop s) (hwf : s.mem.wf = true) (h : exec i s = storeLo k d a s)
    (hacc : Accessible s .write a k.size) : Stores i s a k.size (s.lo d) := by
  have hdone : storeLo k d a s = .next ((s.setMem (storeValue s k a (s.lo d))).setPc (s.pc + 2#32)) := by
    rw [storeLo, checkAccess_granted_iff_accessible.mpr hacc, guarded]
    exact advance_eq htop
  obtain ⟨hframe, hflags, -⟩ := changesOnly_self s
  exact ⟨_, h.trans hdone, holdsBytes_storeValue hwf k a _, memKeptOutside_storeValue hwf k a _, hframe, hflags, rfl⟩

end

/-! Effective addresses (R220). -/

theorem eaWord5_eq (s : State) (n : LoReg) (off : BitVec 5) :
    eaWord5 s n off = s.lo n + BitVec.ofNat 32 (4 * off.toNat) := by rw [eaWord5, zext4_eq]

theorem eaHalf5_eq (s : State) (n : LoReg) (off : BitVec 5) :
    eaHalf5 s n off = s.lo n + BitVec.ofNat 32 (2 * off.toNat) := by rw [eaHalf5, zext2_eq]

theorem eaByte5_eq (s : State) (n : LoReg) (off : BitVec 5) :
    eaByte5 s n off = s.lo n + BitVec.ofNat 32 off.toNat := by rw [eaByte5, zext_eq]

theorem eaSp_eq (s : State) (off : BitVec 8) : eaSp s off = s.sp + BitVec.ofNat 32 (4 * off.toNat) := by
  rw [eaSp, zext4_eq]

theorem eaPc_eq (s : State) (off : BitVec 8) :
    eaPc s off = BitVec.ofNat 32 ((s.pc + 4#32).toNat / 4 * 4 + 4 * off.toNat) := pcBase_add_zext4 s off

/-- The PC-relative address is aligned: its base is, and its offset counts words (R235). -/
theorem eaPc_aligned (s : State) (off : BitVec 8) : (eaPc s off).toNat % 4 = 0 := by
  rw [eaPc_eq, BitVec.toNat_ofNat]
  omega

end Sys2Proof.Machine
end

section
/-! SUPPORT. The statements on the single transfers (43_load_store_single.md) assembled. -/

namespace Sys2Proof.Machine

/-- Settles O43: three word stores, each to its effective address. -/
theorem wordStores : Obligations.WordStores := by
  intro s d n m o5 o8
  exact ⟨decodeHalf_ls1 (by decide) o5 n d, decodeHalf_ls3 0b000#3 m n d, decodeHalf_strSp d o8,
    eaWord5_eq s n o5, rfl, eaSp_eq s o8, fun htop hwf =>
      ⟨stores_of_storeLo (k := .word) htop hwf rfl, stores_of_storeLo (k := .word) htop hwf rfl,
        stores_of_storeLo (k := .word) htop hwf rfl⟩⟩

/-- Settles O44: two halfword stores and two byte stores. -/
theorem narrowStores : Obligations.NarrowStores := by
  intro s d n m o5
  exact ⟨decodeHalf_ls1 (by decide) o5 n d, decodeHalf_ls3 0b001#3 m n d,
    decodeHalf_ls1 (by decide) o5 n d, decodeHalf_ls3 0b010#3 m n d,
    eaHalf5_eq s n o5, eaByte5_eq s n o5, rfl, fun htop hwf =>
      ⟨stores_of_storeLo (k := .half) htop hwf rfl, stores_of_storeLo (k := .half) htop hwf rfl,
        stores_of_storeLo (k := .byte) htop hwf rfl, stores_of_storeLo (k := .byte) htop hwf rfl⟩⟩

/-- Settles O45: four word loads; the PC-relative one needs no alignment premise. -/
theorem wordLoads : Obligations.WordLoads := by
  rintro s d n m o5 o8 aPc rfl
  refine ⟨decodeHalf_ls1 (by decide) o5 n d, decodeHalf_ls3 0b100#3 m n d, decodeHalf_ldrPc d o8,
    decodeHalf_ldrSp d o8, fun htop => ?_⟩
  simp only [forall_eq, ← loadValue_word, ← eaWord5_eq, ← eaPc_eq, ← eaSp_eq]
  exact ⟨writesOnly_of_loadLo (k := .word) htop rfl, writesOnly_of_loadLo (k := .word) htop rfl,
    fun hadm => writesOnly_of_loadLo (k := .word) htop rfl ⟨eaPc_aligned s o8, hadm⟩,
    writesOnly_of_loadLo (k := .word) htop rfl⟩

/-- Settles O46: two byte loads and two halfword loads, extended with zeros. -/
theorem unsignedNarrowLoads : Obligations.UnsignedNarrowLoads := by
  intro s d n m o5
  refine ⟨decodeHalf_ls1 (by decide) o5 n d, decodeHalf_ls1 (by decide) o5 n d,
    decodeHalf_ls3 0b101#3 m n d, decodeHalf_ls3 0b110#3 m n d, fun htop => ?_⟩
  simp only [forall_eq, ← loadValue_half, ← loadValue_byte, ← eaHalf5_eq, ← eaByte5_eq]
  exact ⟨writesOnly_of_loadLo (k := .byte) htop rfl, writesOnly_of_loadLo (k := .half) htop rfl,
    writesOnly_of_loadLo (k := .half) htop rfl, writesOnly_of_loadLo (k := .byte) htop rfl⟩

/-- Settles O47: a byte load and a halfword load, extended with the sign. -/
theorem signedNarrowLoads : Obligations.SignedNarrowLoads := by
  rintro s d n m a rfl
  refine ⟨decodeHalf_ls3 0b011#3 m n d, decodeHalf_ls3 0b111#3 m n d, fun htop => ?_⟩
  rw [← loadValue_signedByte, ← loadValue_signedHalf]
  exact ⟨writesOnly_of_loadLo (k := .signedByte) htop rfl, writesOnly_of_loadLo (k := .signedHalf) htop rfl⟩

end Sys2Proof.Machine
end

section
/-! SUPPORT. The decoding of the multiple transfer formats LSM1 and PUSH of LSM2 (30_encoding.md R86, R90). -/

namespace Sys2Proof

/-! LSM1: five bits of opcode, a register, an 8-bit list, as in DP3. -/

theorem decodeHalf_stmia (n : LoReg) (list : BitVec 8) : decodeHalf (0b11000#5 ++ n ++ list) = .stmia n list := by
  rw [decodeHalf, field_dp3_opcode, field_dp3_register, field_dp3_immediate]
  rfl

theorem decodeHalf_ldmia (n : LoReg) (list : BitVec 8) : decodeHalf (0b11001#5 ++ n ++ list) = .ldmia n list := by
  rw [decodeHalf, field_dp3_opcode, field_dp3_register, field_dp3_immediate]
  rfl

/-! LSM2: seven bits of opcode, the R bit, an 8-bit list. -/

theorem field_lsm2_opcode (op : BitVec 7) (r : Bool) (list : BitVec 8) {start : Nat} (h : 8 ≤ start) (len : Nat) :
    field (op ++ BitVec.ofBool r ++ list) start len = (op ++ BitVec.ofBool r).extractLsb' (start - 8) len :=
  BitVec.extractLsb'_append_eq_of_le h

theorem field_lsm2_list (op : BitVec 7) (r : Bool) (list : BitVec 8) :
    field (op ++ BitVec.ofBool r ++ list) 0 8 = list :=
  BitVec.extractLsb'_append_eq_right

theorem decodeHalf_push (r : Bool) (list : BitVec 8) :
    decodeHalf (0b1011010#7 ++ BitVec.ofBool r ++ list) = .push r list := by
  rw [decodeHalf, field_lsm2_opcode _ r list (by decide), decode10110, field_lsm2_opcode _ r list (Nat.le_refl 8),
    field_lsm2_list]
  cases r <;> rfl

end Sys2Proof
end

section
/-! SUPPORT. Register lists and the words of a multiple transfer (44_load_store_multiple.md R250(b)): the position of a
listed register is its rank, the words at an address are apart, and what a run of word writes leaves in memory. -/

namespace Sys2Proof.Machine

/-! Registers and their ranks. -/

/-- What a filter keeps stands after as many elements as it kept before it. -/
theorem getElem?_filter_countP_take {α : Type} {p : α → Bool} {l : List α} {k : Nat} {x : α} (hk : l[k]? = some x)
    (hp : p x = true) : (l.filter p)[(l.take k).countP p]? = some x := by
  obtain ⟨hlt, rfl⟩ := List.getElem?_eq_some_iff.mp hk
  have hsplit : l.filter p = (l.take k).filter p ++ l[k] :: (l.drop (k + 1)).filter p := by
    rw [← List.filter_cons_of_pos hp, ← List.drop_eq_getElem_cons, ← List.filter_append, List.take_append_drop]
  rw [hsplit, List.countP_eq_length_filter, List.getElem?_append_right (Nat.le_refl _), Nat.sub_self,
    List.getElem?_cons_zero]

theorem listRegs_eq_filter_map_range (list : BitVec 8) :
    listRegs list = ((List.range 8).map (BitVec.ofNat 3)).filter fun i => list.getLsbD i.toNat := rfl

/-- A listed register stands at its rank among the registers of the list (R250(b)). -/
theorem getElem?_listRegs_rank {list : BitVec 8} {i : LoReg} (h : list.getLsbD i.toNat = true) :
    (listRegs list)[rank list i.toNat]? = some i := by
  have hi : i.toNat < 8 := i.isLt
  have hat : ((List.range 8).map (BitVec.ofNat 3))[i.toNat]? = some i := by simp [hi]
  have hrank : (((List.range 8).map (BitVec.ofNat 3)).take i.toNat).countP (fun j => list.getLsbD j.toNat) =
      rank list i.toNat := by
    rw [← List.map_take, List.take_range, Nat.min_eq_left hi.le, List.countP_map, rank]
    refine List.countP_congr fun j hj => ?_
    have hj8 : j < 8 := (List.mem_range.mp hj).trans hi
    rw [Function.comp_apply, BitVec.toNat_ofNat, Nat.mod_eq_of_lt hj8]
  rw [listRegs_eq_filter_map_range, ← hrank]
  exact getElem?_filter_countP_take hat h

theorem rank_lt_of_getLsbD {list : BitVec 8} {i : LoReg} (h : list.getLsbD i.toNat = true) :
    rank list i.toNat < rank list 8 :=
  length_listRegs list ▸ (List.getElem?_eq_some_iff.mp (getElem?_listRegs_rank h)).1

theorem rank_le (list : BitVec 8) (i : Nat) : rank list i ≤ i :=
  List.countP_le_length.trans List.length_range.le

theorem lo_mem_namedRegs {list : BitVec 8} {i : LoReg} (h : list.getLsbD i.toNat = true) :
    PhysReg.lo i ∈ namedRegs list :=
  List.mem_map.mpr ⟨i.toNat, List.mem_filter.mpr ⟨List.mem_range.mpr i.isLt, h⟩, by simp⟩

/-! Words. -/

theorem getElem?_wordAddrs (a : Word) {j n : Nat} (h : j < n) : (wordAddrs a n)[j]? = some (wordAt a j) := by
  simp [wordAddrs_eq, wordAt, h]

theorem mem_wordAddrs {a b : Word} {n : Nat} : b ∈ wordAddrs a n ↔ ∃ j < n, wordAt a j = b := by
  simp [wordAddrs_eq, wordAt]

theorem wordAt_add_ofNat (a : Word) (j k : Nat) : wordAt a j + BitVec.ofNat 32 k = a + BitVec.ofNat 32 (4 * j + k) := by
  rw [wordAt, BitVec.add_assoc, ← BitVec.ofNat_add]

/-- Different words of one transfer share no byte, where it wraps past address 0 too (R51). -/
theorem byteAddrs_wordAt_disjoint (a : Word) {j k : Nat} (hj : j < 2 ^ 30) (hk : k < 2 ^ 30) (hne : j ≠ k) :
    (byteAddrs (wordAt a j) 4).Disjoint (byteAddrs (wordAt a k) 4) := by
  intro b hbj hbk
  obtain ⟨p, hp, rfl⟩ := mem_byteAddrs.mp hbj
  obtain ⟨q, hq, heq⟩ := mem_byteAddrs.mp hbk
  rw [wordAt_add_ofNat, wordAt_add_ofNat, toNat_add_ofNat_inj a (by omega) (by omega)] at heq
  omega

theorem wordAddrs_pairwise_disjoint (a : Word) {n : Nat} (hn : n ≤ 2 ^ 30) :
    (wordAddrs a n).Pairwise fun b c => (byteAddrs b 4).Disjoint (byteAddrs c 4) := by
  rw [wordAddrs_eq, List.pairwise_map]
  refine List.pairwise_lt_range.imp_of_mem fun hj hk hlt => ?_
  rw [List.mem_range] at hj hk
  exact byteAddrs_wordAt_disjoint a (hj.trans_le hn) (hk.trans_le hn) hlt.ne

/-- Of words that share no byte, each still holds its value when all are written. -/
theorem holdsBytes_writeWords {m : Memory} (h : m.wf = true) (e : Endian) {l : List (Word × Word)}
    (hl : l.Pairwise fun c d => (byteAddrs c.1 4).Disjoint (byteAddrs d.1 4)) {a v : Word} (hmem : (a, v) ∈ l) :
    HoldsBytes e (writeWords e m l) a 4 v := by
  induction l generalizing m with
  | nil => cases hmem
  | cons c l ih =>
    obtain ⟨hc, hl⟩ := List.pairwise_cons.mp hl
    rcases List.mem_cons.mp hmem with rfl | hmem
    · intro k hk
      have hlater : ∀ d ∈ l, (a + BitVec.ofNat 32 k).toNat ∉ byteAddrs d.1 4 :=
        fun d hd => hc d hd (mem_byteAddrs.mpr ⟨k, hk, rfl⟩)
      rw [writeWords, readByte_writeWords_other (writeWord_wf h e a v) e l hlater, readByte_writeWord_at h e a v hk,
        byteOf]
    · exact ih (writeWord_wf h e c.1 c.2) hl hmem

/-- Values written to consecutive words lie each in its own word. -/
theorem holdsBytes_writeWords_wordAddrs {m : Memory} (h : m.wf = true) (e : Endian) (a : Word) {vs : List Word}
    (hlen : vs.length ≤ 2 ^ 30) {j : Nat} {v : Word} (hv : vs[j]? = some v) :
    HoldsBytes e (writeWords e m ((wordAddrs a vs.length).zip vs)) (wordAt a j) 4 v := by
  have hfst : ((wordAddrs a vs.length).zip vs).map Prod.fst = wordAddrs a vs.length :=
    List.map_fst_zip (length_wordAddrs a vs.length).le
  have hj : j < vs.length := (List.getElem?_eq_some_iff.mp hv).1
  have hapart := wordAddrs_pairwise_disjoint a hlen
  rw [← hfst, List.pairwise_map] at hapart
  refine holdsBytes_writeWords h e hapart ?_
  exact List.mem_of_getElem? (List.getElem?_zip_eq_some.mpr ⟨getElem?_wordAddrs a hj, hv⟩)

theorem readByte_writeWords_wordAddrs_other {m : Memory} (h : m.wf = true) (e : Endian) (a : Word) {n : Nat}
    (vs : List Word) {b : Nat} (hb : ∀ j < n, b ∉ byteAddrs (wordAt a j) 4) :
    readByte (writeWords e m ((wordAddrs a n).zip vs)) b = readByte m b := by
  refine readByte_writeWords_other h e _ fun c hc => ?_
  obtain ⟨j, hj, hjc⟩ := mem_wordAddrs.mp (List.of_mem_zip hc).1
  exact hjc ▸ hb j hj

end Sys2Proof.Machine
end

section
/-! SUPPORT. What multiple transfers change (44_load_store_multiple.md R250): stores leave their values in consecutive
words and write the base, loads write the listed registers; and the statements on STMIA, LDMIA and PUSH assembled. -/

namespace Sys2Proof.Machine

/-! Stores. -/

/-- The instruction completes: `vs` lie in the `k` words from `a` upwards, `base` holds `b`, and every other byte
and register and every flag is as before. -/
def StoresWords (i : Instr) (s : State) (a : Word) (k : Nat) (vs : List Word) (base : PhysReg) (b : Word) : Prop :=
  ∃ t, exec i s = .next t ∧ (∀ j v, vs[j]? = some v → HoldsBytes s.params.endian t.mem (wordAt a j) 4 v) ∧
    MemKeptOutsideWords a k s t ∧ t.regs.get base = b ∧ Frame [base] s t ∧ FlagsKept s t ∧ t.pc = s.pc + 2#32

theorem storesWords_of_exec {i : Instr} {s : State} {a b : Word} {k : Nat} {vs : List Word} {base : PhysReg}
    (htop : NotTop s) (hwf : s.mem.wf = true) (hlen : vs.length = k) (hk : k ≤ 2 ^ 30)
    (hacc : ∀ j < k, Accessible s .write (wordAt a j) 4)
    (h : exec i s = guarded (checkWords s .write (wordAddrs a k)) s
      (advance ((s.setMem (writeWords s.params.endian s.mem ((wordAddrs a k).zip vs))).setPhys base b))) :
    StoresWords i s a k vs base b := by
  subst hlen
  rw [checkWords_wordAddrs_granted.mpr hacc, guarded] at h
  obtain ⟨hframe, hflags, -⟩ :=
    changesOnly_setPhys (s.setMem (writeWords s.params.endian s.mem ((wordAddrs a vs.length).zip vs))) base b
  exact ⟨_, h.trans (advance_eq htop), fun j v => holdsBytes_writeWords_wordAddrs hwf _ a hk,
    fun x hx => readByte_writeWords_wordAddrs_other hwf _ a vs hx, s.regs.get_set_same base b, hframe, hflags, rfl⟩

/-- A listed register's value stands at its rank among the values stored. -/
theorem getElem?_map_lo_rank (s : State) {list : BitVec 8} {i : LoReg} (h : list.getLsbD i.toNat = true) :
    ((listRegs list).map s.lo)[rank list i.toNat]? = some (s.lo i) := by
  rw [List.getElem?_map, getElem?_listRegs_rank h, Option.map_some]

theorem length_map_lo (s : State) (list : BitVec 8) : ((listRegs list).map s.lo).length = rank list 8 := by
  rw [List.length_map, length_listRegs]

theorem execStmia_eq {n : LoReg} {list : BitVec 8} (hlist : list ≠ 0#8) (hbase : list.getLsbD n.toNat = false)
    (s : State) :
    execStmia n list s = guarded (checkWords s .write (wordAddrs (s.lo n) (rank list 8))) s
      (advance ((s.setMem (writeWords s.params.endian s.mem
        ((wordAddrs (s.lo n) (rank list 8)).zip ((listRegs list).map s.lo)))).setLo n
          (wordAt (s.lo n) (rank list 8)))) := by
  simp only [execStmia, hlist, hbase, length_listRegs, bytesOfWords, wordAt, if_false, Bool.false_eq_true]

/-- Settles O51: the values stored are the listed registers', and the base is the register written. -/
theorem storeMultiple : Obligations.StoreMultiple := by
  intro s n list
  refine ⟨decodeHalf_stmia n list, ?empty, fun h => execStmia_baseInList h s, ?stores⟩
  case empty =>
    rintro rfl
    exact execStmia_empty n s
  case stores =>
    intro htop hwf hlist hbase hacc
    have hk : rank list 8 ≤ 2 ^ 30 := (rank_le list 8).trans (by decide)
    obtain ⟨t, ht, hwords, hrest⟩ := storesWords_of_exec (i := .stmia n list) (base := .lo n) htop hwf
      (length_map_lo s list) hk hacc (execStmia_eq hlist hbase s)
    exact ⟨t, ht, fun i hi => hwords _ _ (getElem?_map_lo_rank s hi), hrest⟩

/-! PUSH. -/

theorem pushStart_eq (s : State) (r : Bool) (list : BitVec 8) :
    pushStart s r list = s.sp - BitVec.ofNat 32 (4 * (rank list 8 + r.toNat)) := by
  rw [pushStart, bytesOfWords, listCount_eq_rank]

theorem length_pushValues (s : State) (r : Bool) (list : BitVec 8) :
    (pushValues s r list).length = rank list 8 + r.toNat := by
  rw [pushValues, List.length_append, length_map_lo]
  cases r <;> rfl

theorem getElem?_pushValues_rank (s : State) (r : Bool) {list : BitVec 8} {i : LoReg}
    (h : list.getLsbD i.toNat = true) : (pushValues s r list)[rank list i.toNat]? = some (s.lo i) := by
  have hlt : rank list i.toNat < ((listRegs list).map s.lo).length := length_map_lo s list ▸ rank_lt_of_getLsbD h
  rw [pushValues, List.getElem?_append_left hlt, getElem?_map_lo_rank s h]

/-- LR is the last value PUSH stores (R253). -/
theorem getElem?_pushValues_lr (s : State) (list : BitVec 8) : (pushValues s true list)[rank list 8]? = some s.lr := by
  rw [pushValues, ← length_map_lo s list, List.getElem?_append_right (Nat.le_refl _), Nat.sub_self]
  rfl

/-- The last word of a full descending transfer lies just below the old SP (R253). -/
theorem wordAt_last (a : Word) (k : Nat) : wordAt (a - BitVec.ofNat 32 (4 * (k + 1))) k = a - 4#32 := by
  rw [wordAt, Nat.mul_succ, BitVec.ofNat_add]
  ring

theorem execPush_eq {r : Bool} {list : BitVec 8} (hk : rank list 8 + r.toNat ≠ 0) (s : State) :
    execPush r list s =
      guarded (checkWords s .write (wordAddrs (pushStart s r list) (rank list 8 + r.toNat))) s
        (advance ((s.setMem (writeWords s.params.endian s.mem
          ((wordAddrs (pushStart s r list) (rank list 8 + r.toNat)).zip (pushValues s r list)))).setPhys (spOf s)
            (pushStart s r list))) := by
  rw [execPush, listCount_eq_rank, if_neg hk]
  rfl

theorem execPush_of_count_zero {r : Bool} {list : BitVec 8} (hk : rank list 8 + r.toNat = 0) (s : State) :
    execPush r list s = .refused .emptyList := by
  rw [execPush, listCount_eq_rank, if_pos hk]

/-- Settles O53: the values stored are the listed registers' and then LR's, and SP is the register written. -/
theorem pushRegisters : Obligations.PushRegisters := by
  rintro s r list k start rfl rfl
  rw [← pushStart_eq]
  refine ⟨decodeHalf_push r list, rfl, fun hk => execPush_of_count_zero hk s, fun htop hwf hk hacc => ?_⟩
  have hk30 : rank list 8 + r.toNat ≤ 2 ^ 30 :=
    (Nat.add_le_add (rank_le list 8) r.toNat_le).trans (by decide)
  obtain ⟨t, ht, hwords, hkept, hsp, hframe, hrest⟩ := storesWords_of_exec (i := .push r list) htop hwf
    (length_pushValues s r list) hk30 hacc (execPush_eq hk s)
  refine ⟨t, ht, fun i hi => hwords _ _ (getElem?_pushValues_rank s r hi), ?lr, hkept, ?sp, hframe, hrest⟩
  case lr =>
    rintro rfl
    have hlast : wordAt (pushStart s true list) (rank list 8) = s.sp - 4#32 := by
      rw [pushStart_eq]
      exact wordAt_last s.sp (rank list 8)
    exact hlast ▸ hwords _ _ (getElem?_pushValues_lr s list)
  case sp =>
    obtain ⟨-, ⟨-, -, -, -, hmode, -⟩, -⟩ := hframe
    rw [State.sp, hmode]
    exact hsp

/-! Loads. -/

theorem changesOnly_refl (rs : List PhysReg) (s : State) : ChangesOnly rs s s :=
  ⟨⟨fun _ _ => rfl, (changesOnly_self s).1.2⟩, (changesOnly_self s).2⟩

/-- A further write to one of the registers that may change. -/
theorem changesOnly_setPhys_of_mem {rs : List PhysReg} {s t : State} {p : PhysReg} (h : ChangesOnly rs s t)
    (hp : p ∈ rs) (v : Word) : ChangesOnly rs s (t.setPhys p v) := by
  obtain ⟨⟨hregs, hframe⟩, hrest⟩ := h
  refine ⟨⟨fun q hq => ?_, hframe⟩, hrest⟩
  exact (RegFile.get_set_ne t.regs (ne_of_mem_of_not_mem hp hq).symm v).trans (hregs q hq)

theorem changesOnly_loadRegs {rs : List PhysReg} {s t : State} (h : ChangesOnly rs s t) (e : Endian) (m : Memory)
    {l : List (LoReg × Word)} (hl : ∀ c ∈ l, PhysReg.lo c.1 ∈ rs) : ChangesOnly rs s (loadRegs e m t l) := by
  induction l generalizing t with
  | nil => exact h
  | cons c l ih =>
    exact ih (changesOnly_setPhys_of_mem h (hl c (List.mem_cons_self ..)) _)
      fun d hd => hl d (List.mem_cons_of_mem _ hd)

section
variable {list : BitVec 8} {a : Word} {k : Nat}

/-- Loading a list from consecutive words changes its registers alone. -/
theorem changesOnly_loadRegs_list {rs : List PhysReg} (s : State) (h : namedRegs list ⊆ rs) (e : Endian)
    (m : Memory) : ChangesOnly rs s (loadRegs e m s ((listRegs list).zip (wordAddrs a k))) :=
  changesOnly_loadRegs (changesOnly_refl rs s) e m fun _ hc =>
    h (lo_mem_namedRegs (mem_listRegs.mp (List.of_mem_zip hc).1))

/-- Loading a list from consecutive words gives each of its registers the word at its rank (R250(b)). -/
theorem lo_loadRegs_list (s : State) (e : Endian) (m : Memory) (hk : rank list 8 ≤ k) {i : LoReg}
    (hi : list.getLsbD i.toNat = true) :
    (loadRegs e m s ((listRegs list).zip (wordAddrs a k))).lo i =
      BitVec.ofNat 32 (bytesValue e m (wordAt a (rank list i.toNat)) 4) := by
  have hfst : ((listRegs list).zip (wordAddrs a k)).map Prod.fst = listRegs list :=
    List.map_fst_zip (by rwa [length_listRegs, length_wordAddrs])
  have hmem : (i, wordAt a (rank list i.toNat)) ∈ (listRegs list).zip (wordAddrs a k) :=
    List.mem_of_getElem? <| List.getElem?_zip_eq_some.mpr
      ⟨getElem?_listRegs_rank hi, getElem?_wordAddrs a ((rank_lt_of_getLsbD hi).trans_le hk)⟩
  have hnodup := listRegs_nodup list
  rw [← hfst] at hnodup
  rw [loadRegs_lo e m s hnodup hmem, readWord_eq_bytesValue]

end

theorem execLdmia_eq {n : LoReg} {list : BitVec 8} (hlist : list ≠ 0#8) (hbase : list.getLsbD n.toNat = false)
    (s : State) :
    execLdmia n list s = guarded (checkWords s .read (wordAddrs (s.lo n) (rank list 8))) s
      (advance ((loadRegs s.params.endian s.mem s ((listRegs list).zip (wordAddrs (s.lo n) (rank list 8)))).setLo n
        (wordAt (s.lo n) (rank list 8)))) := by
  simp only [execLdmia, hlist, hbase, length_listRegs, bytesOfWords, wordAt, if_false, Bool.false_eq_true]

/-- A change of registers alone, then on to the next instruction. -/
theorem advance_of_changesOnly {rs : List PhysReg} {s t : State} (htop : NotTop s) (hpc : t.pc = s.pc)
    (h : ChangesOnly rs s t) : advance t = .next (t.setPc (s.pc + 2#32)) ∧ FlagsKept s (t.setPc (s.pc + 2#32)) ∧
      MovesOn rs s (t.setPc (s.pc + 2#32)) := by
  obtain ⟨hframe, hflags, hmem⟩ := h
  exact ⟨hpc ▸ advance_eq (hpc ▸ htop), hflags, hframe, hmem, rfl⟩

/-- Settles O52: the listed registers are loaded and then the base is written, which is none of them. -/
theorem loadMultiple : Obligations.LoadMultiple := by
  intro s n list
  refine ⟨decodeHalf_ldmia n list, ?empty, fun h => execLdmia_baseInList h s, ?loads⟩
  case empty =>
    rintro rfl
    exact execLdmia_empty n s
  case loads =>
    intro htop hlist hbase hacc
    have hexec := execLdmia_eq hlist hbase s
    rw [checkWords_wordAddrs_granted.mpr hacc, guarded] at hexec
    have hchanges := changesOnly_setPhys_of_mem
      (changesOnly_loadRegs_list (a := s.lo n) (k := rank list 8) s (List.subset_cons_self (.lo n) (namedRegs list))
        s.params.endian s.mem)
      (List.mem_cons_self ..) (wordAt (s.lo n) (rank list 8))
    obtain ⟨hadvance, hflags, hmoves⟩ := advance_of_changesOnly htop
      ((State.setLo_pc ..).trans (loadRegs_fields ..).1) hchanges
    refine ⟨_, hexec.trans hadvance, fun i hi => ?_, State.lo_setLo_same _ n _, hflags, hmoves⟩
    have hne : i ≠ n := fun he => Bool.noConfusion (hbase.symm.trans (he ▸ hi))
    exact (State.lo_setLo_ne _ hne _).trans (lo_loadRegs_list s _ _ (Nat.le_refl _) hi)

end Sys2Proof.Machine
end

section
/-! SUPPORT. The decoding of the UNDEFINED patterns (30_encoding.md R90, R91). -/

namespace Sys2Proof

/-! The rows with unallocated space. A pattern that ends inside `insn[10:8]` leaves a range of values there. -/

theorem toNat_field (w : Half) (start len : Nat) : (field w start len).toNat = w.toNat / 2 ^ start % 2 ^ len := by
  rw [field, BitVec.extractLsb'_toNat, Nat.shiftRight_eq_div_pow]

theorem decodeHalf_row10110 {w : Half} (h : field w 11 5 = 0b10110#5) : decodeHalf w = decode10110 w := by
  rw [decodeHalf, h]
  rfl

theorem decodeHalf_row10111 {w : Half} (h : field w 11 5 = 0b10111#5) : decodeHalf w = decode10111 w := by
  rw [decodeHalf, h]
  rfl

theorem decode10110_undB2 {w : Half} (h : (field w 8 3).toNat / 2 = 1) : decode10110 w = .undB2 (field w 0 9) := by
  have hcode : (field w 8 3).toNat = 2 ∨ (field w 8 3).toNat = 3 := by omega
  rw [decode10110]
  rcases hcode with hcode | hcode <;> simp only [hcode]

theorem decode10110_undB6 {w : Half} (h : (field w 8 3).toNat / 2 = 3) : decode10110 w = .undB6 (field w 0 9) := by
  have hcode : (field w 8 3).toNat = 6 ∨ (field w 8 3).toNat = 7 := by omega
  rw [decode10110]
  rcases hcode with hcode | hcode <;> simp only [hcode]

theorem decode10111_undB8 {w : Half} (h : (field w 8 3).toNat < 4) : decode10111 w = .undB8 (field w 0 10) := by
  unfold decode10111
  split
  case h_5 => rfl
  all_goals omega

/-! Each pattern. -/

/-- Above eight free bits, the fields of a halfword are those of its opcode. -/
theorem field_opcode8 (op : BitVec 8) (rest : BitVec 8) {start : Nat} (h : 8 ≤ start) (len : Nat) :
    field (op ++ rest) start len = op.extractLsb' (start - 8) len :=
  BitVec.extractLsb'_append_eq_of_le h

theorem field_rest8 (op : BitVec 8) (rest : BitVec 8) : field (op ++ rest) 0 8 = rest :=
  BitVec.extractLsb'_append_eq_right

theorem decodeHalf_undB1 (rest : BitVec 8) : decodeHalf (0b10110001#8 ++ rest) = .undB1 rest := by
  rw [decodeHalf_row10110 (field_opcode8 _ rest (by decide) 5), decode10110,
    field_opcode8 _ rest (Nat.le_refl 8), field_rest8]
  rfl

theorem decodeHalf_undBF (rest : BitVec 8) : decodeHalf (0b10111111#8 ++ rest) = .undBF rest := by
  rw [decodeHalf_row10111 (field_opcode8 _ rest (by decide) 5), decode10111,
    field_opcode8 _ rest (Nat.le_refl 8), field_rest8]
  rfl

/-- The code of `insn[11:8]` that is no condition of a conditional branch (R95). -/
theorem decodeHalf_undDE (rest : BitVec 8) : decodeHalf (0b11011110#8 ++ rest) = .undDE rest := by
  rw [decodeHalf_row1101 (.inr (field_opcode8 _ rest (by decide) 5)), decode1101,
    field_opcode8 _ rest (Nat.le_refl 8), field_rest8]
  rfl

theorem field_opcode7_row (op : BitVec 7) (rest : BitVec 9) : field (op ++ rest) 11 5 = op.extractLsb' 2 5 :=
  BitVec.extractLsb'_append_eq_of_le (by decide)

/-- The last two bits of a 7-bit opcode are the upper two of `insn[10:8]`. -/
theorem toNat_field_opcode7 (op : BitVec 7) (rest : BitVec 9) :
    (field (op ++ rest) 8 3).toNat / 2 = op.toNat % 4 := by
  rw [toNat_field, Machine.toNat_append_add]
  omega

theorem field_rest9 (op : BitVec 7) (rest : BitVec 9) : field (op ++ rest) 0 9 = rest :=
  BitVec.extractLsb'_append_eq_right

theorem decodeHalf_undB2 (rest : BitVec 9) : decodeHalf (0b1011001#7 ++ rest) = .undB2 rest := by
  rw [decodeHalf_row10110 (field_opcode7_row _ rest), decode10110_undB2 (toNat_field_opcode7 _ rest), field_rest9]

theorem decodeHalf_undB6 (rest : BitVec 9) : decodeHalf (0b1011011#7 ++ rest) = .undB6 rest := by
  rw [decodeHalf_row10110 (field_opcode7_row _ rest), decode10110_undB6 (toNat_field_opcode7 _ rest), field_rest9]

theorem decodeHalf_undB8 (rest : BitVec 10) : decodeHalf (0b101110#6 ++ rest) = .undB8 rest := by
  have hrow : field (0b101110#6 ++ rest) 11 5 = 0b10111#5 := BitVec.extractLsb'_append_eq_of_le (by decide)
  have hrest : field (0b101110#6 ++ rest) 0 10 = rest := BitVec.extractLsb'_append_eq_right
  have hcode : (field (0b101110#6 ++ rest) 8 3).toNat < 4 := by
    rw [toNat_field, Machine.toNat_append_add, BitVec.toNat_ofNat]
    omega
  rw [decodeHalf_row10111 hrow, decode10111_undB8 hcode, hrest]

end Sys2Proof
end

section
/-! SUPPORT. Taking an exception (60_exceptions.md R271, R275), and the statements on exception entry assembled. -/

namespace Sys2Proof.Machine

/-! Taking any exception. -/

theorem takeException_memKept (e : Exc) (s : State) : MemKept s (takeException e s) := by
  obtain ⟨-, hmem, -⟩ := takeException_common e s
  intro a
  rw [hmem]

/-- A row of the table of R271 for an exception taken in a state: the exception with its vector, mode, bank, link and
the F it leaves. -/
def entryRow (e : Exc) (s : State) : Exc × Word × Mode × Bank × Word × Bool :=
  (e, e.vector, e.mode, bankOf e.mode, returnLink e s, s.cpsr.f || e.masksFiq)

/-- The row of an exception that leaves F as it was. -/
theorem entryRow_of_fiqMaskKept {e : Exc} (h : e.masksFiq = false) (s : State) :
    entryRow e s = (e, e.vector, e.mode, bankOf e.mode, returnLink e s, s.cpsr.f) := by
  rw [entryRow, h, Bool.or_false]

theorem entryRow_fiq (s : State) : entryRow .fiq s = (.fiq, 0x1C#32, .fiq, .fiq, s.pc + 4#32, true) := by
  rw [entryRow, Exc.masksFiq, Bool.or_true]
  rfl

/-- Settles O17: what holds of a Reset too, what Reset fixes, and for every other exception the entry, whose rows are
those of R271. -/
theorem exceptionEntryAsSpecified : Obligations.ExceptionEntryAsSpecified := by
  intro s
  obtain ⟨hpc, -, -, -, -, -, -⟩ := takeException_common .reset s
  obtain ⟨hm, -, -, hf⟩ := takeException_cpsr .reset s
  refine ⟨fun e => ?any, hpc, hm, hf.trans (Bool.or_true _), fun e vector link m b f h => ?entry⟩
  case any =>
    obtain ⟨-, ht, hi, -⟩ := takeException_cpsr e s
    obtain ⟨-, -, -, -, -, -, hended⟩ := takeException_common e s
    exact ⟨ht, hi, hended, takeException_memKept e s⟩
  case entry =>
    obtain ⟨hreset, hrow⟩ : e ≠ .reset ∧ (e, vector, m, b, link, f) = entryRow e s := by
      rcases h with h | ⟨imm, h⟩ | ⟨a, h⟩ | ⟨a, h⟩ | h | h
      case inr.inr.inr.inr.inr => cases h; exact ⟨Exc.noConfusion, (entryRow_fiq s).symm⟩
      all_goals cases h; exact ⟨Exc.noConfusion, (entryRow_of_fiqMaskKept rfl s).symm⟩
    simp only [entryRow, Prod.mk.injEq] at hrow
    obtain ⟨-, rfl, rfl, rfl, rfl, rfl⟩ := hrow
    rw [takeException_eq hreset]
    exact ⟨enterException_pc e s, rfl, rfl, enterException_link e s, enterException_regsKept e s,
      enterException_savedStatus e s, fun c hc => enterException_spsrKept e s hc, enterException_flagsKept e s, rfl,
      enterException_output e s⟩

/-! The Undefined instruction exception. -/

/-- The instructions that are UNDEFINED in a state: the patterns of R91, and under v4T the second half of BLX. -/
def UndefinedIn (s : State) (i : Instr) : Prop :=
  (∃ x, i = .undB1 x) ∨ (∃ x, i = .undB2 x) ∨ (∃ x, i = .undB6 x) ∨ (∃ x, i = .undB8 x) ∨ (∃ x, i = .undBF x) ∨
    (∃ x, i = .undDE x) ∨ (∃ x, i = .undE8 x) ∨ ((∃ x, i = .blxLabel x) ∧ s.params.arch = .v4T)

theorem exec_of_undefinedIn {s : State} {i : Instr} (h : UndefinedIn s i) :
    exec i s = .next (enterException .undefinedInstruction s) := by
  rcases h with ⟨x, rfl⟩ | ⟨x, rfl⟩ | ⟨x, rfl⟩ | ⟨x, rfl⟩ | ⟨x, rfl⟩ | ⟨x, rfl⟩ | ⟨x, rfl⟩ | ⟨⟨x, rfl⟩, harch⟩
  case inr.inr.inr.inr.inr.inr.inr => exact execBlxLabel_v4T harch x
  all_goals rfl

/-- Settles O19: the decoding of each pattern, and the entry to the exception, whose bank is that of Undefined mode. -/
theorem undefinedEncodingsTakeException : Obligations.UndefinedEncodingsTakeException := by
  intro s i
  refine ⟨fun x y z => ?decoding, fun h => ?entry⟩
  case decoding =>
    exact ⟨decodeHalf_undB1 x, decodeHalf_undB2 y, decodeHalf_undB6 y, decodeHalf_undB8 z, decodeHalf_undBF x,
      decodeHalf_undDE x, decodeHalf_blxRow z 1#1⟩
  case entry =>
    have hcpsr := enterException_cpsr .undefinedInstruction s
    refine ⟨enterException .undefinedInstruction s, exec_of_undefinedIn h, rfl, ?mode, ?thumb, ?irqMask,
      enterException_fiqMaskKept rfl s, enterException_link .undefinedInstruction s,
      enterException_regsKept .undefinedInstruction s, ?spsr, fun b hb => enterException_spsrKept _ s hb,
      enterException_flagsKept _ s, ?reserved, enterException_memKept _ s, enterException_params _ s,
      enterException_events _ s, enterException_output _ s, enterException_ended _ s⟩
    case mode => rw [hcpsr, Exc.mode]
    case thumb => rw [hcpsr]
    case irqMask => rw [hcpsr]
    case spsr => exact Option.some.inj (enterException_savedStatus .undefinedInstruction s)
    case reserved => rw [hcpsr]

end Sys2Proof.Machine
end

section
/-! SUPPORT. What a step answers once the machine has stopped (00_scope.md R7), and the statement on the reset state. -/

namespace Sys2Proof.Machine

/-- A stopped machine takes no step: no exception is looked for, nothing is fetched. -/
theorem step_of_stopped {s : State} {f : Fault} (h : stopped s = some f) : step s = .fault f := by
  rw [step, h]

theorem stopped_of_armState {s : State} (hended : s.ended = none) (hthumb : s.cpsr.t = false) :
    stopped s = some .armState := by
  simp only [stopped, hended, hthumb, Bool.false_eq_true, if_false]

/-- Settles O9: the fixed values are those the model gives, and T = 0 with the run not ended stops the step. -/
theorem resetStateAsSpecified : Obligations.ResetStateAsSpecified := by
  have hthumb : State.reset.cpsr.t = false := rfl
  have hended : State.reset.ended = none := rfl
  exact ⟨hthumb, rfl, rfl, rfl, rfl, step_of_stopped (stopped_of_armState hended hthumb)⟩

end Sys2Proof.Machine
end

section
/-! SUPPORT. Encoding and decoding are inverse (30_encoding.md R82 to R91): the decodings that no statement on a single
format needed, a halfword put together from its fields, and the statements assembled. -/

namespace Sys2Proof

/-! Decoding after encoding: one lemma per format, here the last two. -/

theorem decodeHalf_pop (r : Bool) (list : BitVec 8) :
    decodeHalf (0b1011110#7 ++ BitVec.ofBool r ++ list) = .pop r list := by
  have hrow : field (0b1011110#7 ++ BitVec.ofBool r ++ list) 11 5 = 0b10111#5 := by
    rw [field_lsm2_opcode _ r list (by decide)]
    exact BitVec.extractLsb'_append_eq_of_le (by decide)
  rw [decodeHalf_row10111 hrow, decode10111, field_lsm2_opcode _ r list (Nat.le_refl 8), field_lsm2_list]
  cases r <;> rfl

theorem decodeHalf_refuseU9 (rest : BitVec 8) : decodeHalf (0b10111110#8 ++ rest) = .refuseU9 rest := by
  rw [decodeHalf_row10111 (field_opcode8 _ rest (by decide) 5), decode10111,
    field_opcode8 _ rest (Nat.le_refl 8), field_rest8]
  rfl

theorem decodeHalf_encode (i : Instr) : decodeHalf (encode i) = i := by
  cases i with
  | lslImm rd rm sh => exact decodeHalf_lslImm rd rm sh
  | lsrImm rd rm sh => exact decodeHalf_lsrImm rd rm sh
  | asrImm rd rm sh => exact decodeHalf_asrImm rd rm sh
  | addReg rd rn rm => exact decodeHalf_dp1 0b00#2 rm rn rd
  | subReg rd rn rm => exact decodeHalf_dp1 0b01#2 rm rn rd
  | addImm3 rd rn imm => exact decodeHalf_dp1 0b10#2 imm rn rd
  | subImm3 rd rn imm => exact decodeHalf_dp1 0b11#2 imm rn rd
  | movImm8 rd imm => exact decodeHalf_movImm8 rd imm
  | cmpImm8 rn imm => exact decodeHalf_cmpImm8 rn imm
  | addImm8 rd imm => exact decodeHalf_addImm8 rd imm
  | subImm8 rd imm => exact decodeHalf_subImm8 rd imm
  | andReg rd rm => exact decodeHalf_dp5 0b0000#4 rm rd
  | eorReg rd rm => exact decodeHalf_dp5 0b0001#4 rm rd
  | lslReg rd rs => exact decodeHalf_dp5 0b0010#4 rs rd
  | lsrReg rd rs => exact decodeHalf_dp5 0b0011#4 rs rd
  | asrReg rd rs => exact decodeHalf_dp5 0b0100#4 rs rd
  | adc rd rm => exact decodeHalf_dp5 0b0101#4 rm rd
  | sbc rd rm => exact decodeHalf_dp5 0b0110#4 rm rd
  | rorReg rd rs => exact decodeHalf_dp5 0b0111#4 rs rd
  | tst rn rm => exact decodeHalf_dp5 0b1000#4 rm rn
  | neg rd rn => exact decodeHalf_dp5 0b1001#4 rn rd
  | cmpReg rn rm => exact decodeHalf_dp5 0b1010#4 rm rn
  | cmn rn rm => exact decodeHalf_dp5 0b1011#4 rm rn
  | orr rd rm => exact decodeHalf_dp5 0b1100#4 rm rd
  | mul rd rm => exact decodeHalf_dp5 0b1101#4 rm rd
  | bic rd rm => exact decodeHalf_dp5 0b1110#4 rm rd
  | mvn rd rm => exact decodeHalf_dp5 0b1111#4 rm rd
  | addHi rd rm => exact decodeHalf_addHi rd rm
  | cmpHi rn rm => exact decodeHalf_cmpHi rn rm
  | movHi rd rm => exact decodeHalf_movHi rd rm
  | bx rm sbz => exact decodeHalf_bx rm sbz
  | blxReg rm sbz => exact decodeHalf_blxReg rm sbz
  | ldrPc rd off => exact decodeHalf_ldrPc rd off
  | strReg rd rn rm => exact decodeHalf_ls3 0b000#3 rm rn rd
  | strhReg rd rn rm => exact decodeHalf_ls3 0b001#3 rm rn rd
  | strbReg rd rn rm => exact decodeHalf_ls3 0b010#3 rm rn rd
  | ldrsbReg rd rn rm => exact decodeHalf_ls3 0b011#3 rm rn rd
  | ldrReg rd rn rm => exact decodeHalf_ls3 0b100#3 rm rn rd
  | ldrhReg rd rn rm => exact decodeHalf_ls3 0b101#3 rm rn rd
  | ldrbReg rd rn rm => exact decodeHalf_ls3 0b110#3 rm rn rd
  | ldrshReg rd rn rm => exact decodeHalf_ls3 0b111#3 rm rn rd
  | strImm rd rn off => exact decodeHalf_ls1 (op := 0b01100#5) (by decide) off rn rd
  | ldrImm rd rn off => exact decodeHalf_ls1 (op := 0b01101#5) (by decide) off rn rd
  | strbImm rd rn off => exact decodeHalf_ls1 (op := 0b01110#5) (by decide) off rn rd
  | ldrbImm rd rn off => exact decodeHalf_ls1 (op := 0b01111#5) (by decide) off rn rd
  | strhImm rd rn off => exact decodeHalf_ls1 (op := 0b10000#5) (by decide) off rn rd
  | ldrhImm rd rn off => exact decodeHalf_ls1 (op := 0b10001#5) (by decide) off rn rd
  | strSp rd off => exact decodeHalf_strSp rd off
  | ldrSp rd off => exact decodeHalf_ldrSp rd off
  | addPc rd imm => exact decodeHalf_addPc rd imm
  | addRdSp rd imm => exact decodeHalf_addRdSp rd imm
  | addSp imm => exact decodeHalf_dp8 0#1 imm
  | subSp imm => exact decodeHalf_dp8 1#1 imm
  | push lr list => exact decodeHalf_push lr list
  | pop pc list => exact decodeHalf_pop pc list
  | stmia rn list => exact decodeHalf_stmia rn list
  | ldmia rn list => exact decodeHalf_ldmia rn list
  | beq off => exact decodeHalf_condBranch .eq off
  | bne off => exact decodeHalf_condBranch .ne off
  | bcs off => exact decodeHalf_condBranch .cs off
  | bcc off => exact decodeHalf_condBranch .cc off
  | bmi off => exact decodeHalf_condBranch .mi off
  | bpl off => exact decodeHalf_condBranch .pl off
  | bvs off => exact decodeHalf_condBranch .vs off
  | bvc off => exact decodeHalf_condBranch .vc off
  | bhi off => exact decodeHalf_condBranch .hi off
  | bls off => exact decodeHalf_condBranch .ls off
  | bge off => exact decodeHalf_condBranch .ge off
  | blt off => exact decodeHalf_condBranch .lt off
  | bgt off => exact decodeHalf_condBranch .gt off
  | ble off => exact decodeHalf_condBranch .le off
  | swi imm => exact decodeHalf_swi imm
  | b off => exact decodeHalf_b off
  | blxLabel offHigh => exact decodeHalf_blxRow offHigh 0#1
  | blFirst off => exact decodeHalf_blFirst off
  | blSecond off => exact decodeHalf_blSecond off
  | undB1 rest => exact decodeHalf_undB1 rest
  | undB2 rest => exact decodeHalf_undB2 rest
  | undB6 rest => exact decodeHalf_undB6 rest
  | undB8 rest => exact decodeHalf_undB8 rest
  | refuseU9 rest => exact decodeHalf_refuseU9 rest
  | undBF rest => exact decodeHalf_undBF rest
  | undDE rest => exact decodeHalf_undDE rest
  | undE8 rest => exact decodeHalf_blxRow rest 1#1

/-- Two neighbouring fields are one field. -/
theorem field_append_field (w : Half) {hi lo m n : Nat} (h : hi = lo + n) :
    field w hi m ++ field w lo n = field w lo (m + n) :=
  BitVec.extractLsb'_append_extractLsb'_eq_extractLsb' h

/-- The field of all sixteen bits is the halfword. -/
theorem field_all (w : Half) : field w 0 16 = w := BitVec.extractLsb'_eq_self

/-- The two bytes of a halfword joined are the halfword (R52). -/
theorem joinHalf_splitHalf (e : Endian) (w : Half) : joinHalf e (splitHalf e w).1 (splitHalf e w).2 = w := by
  have hjoin : field w 8 8 ++ field w 0 8 = w := (field_append_field w rfl).trans (field_all w)
  cases e with
  | little => exact hjoin
  | big => exact hjoin

theorem decode_encodeBytes (e : Endian) (i : Instr) (rest : List Byte) :
    decode e (encodeBytes e i ++ rest) = .ok (decodeHalf (encode i), rest) := by
  rw [encodeBytes, List.cons_append, List.cons_append, List.nil_append, decode, joinHalf_splitHalf]

/-- Settles O1: the instruction's own decoding lemma, and the bytes joined to the halfword they were split from. -/
theorem decodeAfterEncode : Obligations.DecodeAfterEncode := by
  refine fun i => ⟨decodeHalf_encode i, fun e rest => ?bytes⟩
  rw [decode_encodeBytes, decodeHalf_encode]

end Sys2Proof
end

section
/-! SUPPORT. Every halfword is the encoding of what it decodes to (30_encoding.md R90): a halfword put together from the
fields each format reads, and one lemma per part of the decoder. -/

namespace Sys2Proof

/-! Fields. -/

theorem field_eq_ofNat {w : Half} {start len n : Nat} (h : (field w start len).toNat = n) :
    field w start len = BitVec.ofNat len n := by
  rw [← h, BitVec.ofNat_toNat, BitVec.setWidth_eq]

/-- A field of one bit is that bit. -/
theorem field_one {w : Half} {k : Nat} {b : Bool} (h : bitAt w k = b) : field w k 1 = BitVec.ofBool b := by
  subst h
  refine BitVec.eq_of_getLsbD_eq fun i hi => ?_
  obtain rfl : i = 0 := Nat.lt_one_iff.mp hi
  rw [field, bitAt, BitVec.getLsbD_extractLsb', BitVec.getLsbD_ofBool]
  rfl

/-- An opcode of two fields, from what each of them holds. -/
theorem field_of_fields {w : Half} (lo n : Nat) {hi m : Nat} {x : BitVec m} {y : BitVec n} (hx : field w hi m = x)
    (hy : field w lo n = y) (h : hi = lo + n) : field w lo (m + n) = x ++ y := by
  rw [← hx, ← hy, field_append_field w h]

/-! A halfword from its fields, by format. -/

section
variable {w : Half}

theorem append_fields_8 {op : BitVec 8} (h : field w 8 8 = op) : op ++ field w 0 8 = w :=
  (field_of_fields 0 8 h rfl rfl).symm.trans (field_all w)

theorem append_fields_11 {op : BitVec 5} (h : field w 11 5 = op) : op ++ field w 0 11 = w :=
  (field_of_fields 0 11 h rfl rfl).symm.trans (field_all w)

theorem append_fields_10 {op : BitVec 6} (h : field w 10 6 = op) : op ++ field w 0 10 = w :=
  (field_of_fields 0 10 h rfl rfl).symm.trans (field_all w)

theorem append_fields_9 {op : BitVec 7} (h : field w 9 7 = op) : op ++ field w 0 9 = w :=
  (field_of_fields 0 9 h rfl rfl).symm.trans (field_all w)

theorem append_fields_7 {op : BitVec 9} (h : field w 7 9 = op) : op ++ field w 0 7 = w :=
  (field_of_fields 0 7 h rfl rfl).symm.trans (field_all w)

theorem append_fields_3 {op : BitVec 13} (h : field w 3 13 = op) : op ++ field w 0 3 = w :=
  (field_of_fields 0 3 h rfl rfl).symm.trans (field_all w)

theorem append_fields_10_1 {op : BitVec 5} {b : Bool} (h : field w 11 5 = op) (hb : bitAt w 0 = b) :
    op ++ field w 1 10 ++ BitVec.ofBool b = w :=
  (field_of_fields 0 1 (field_of_fields 1 10 h rfl rfl) (field_one hb) rfl).symm.trans (field_all w)

theorem append_fields_3_8 {op : BitVec 5} (h : field w 11 5 = op) : op ++ field w 8 3 ++ field w 0 8 = w :=
  append_fields_8 (field_of_fields 8 3 h rfl rfl)

theorem append_fields_4_3 {op : BitVec 9} (h : field w 7 9 = op) : op ++ field w 3 4 ++ field w 0 3 = w :=
  append_fields_3 (field_of_fields 3 4 h rfl rfl)

theorem append_fields_3_3 {op : BitVec 10} (h : field w 6 10 = op) : op ++ field w 3 3 ++ field w 0 3 = w :=
  append_fields_3 (field_of_fields 3 3 h rfl rfl)

theorem append_fields_3_3_3 {op : BitVec 7} (h : field w 9 7 = op) :
    op ++ field w 6 3 ++ field w 3 3 ++ field w 0 3 = w :=
  append_fields_3_3 (field_of_fields 6 3 h rfl rfl)

theorem append_fields_5_3_3 {op : BitVec 5} (h : field w 11 5 = op) :
    op ++ field w 6 5 ++ field w 3 3 ++ field w 0 3 = w :=
  append_fields_3_3 (field_of_fields 6 5 h rfl rfl)

/-- The format whose first register has its top bit apart (R88). -/
theorem append_fields_dp6 {op : BitVec 8} (h : field w 8 8 = op) :
    op ++ (field w 7 1 ++ field w 0 3).extractLsb' 3 1 ++ field w 3 4 ++
      (field w 7 1 ++ field w 0 3).extractLsb' 0 3 = w := by
  rw [BitVec.extractLsb'_append_eq_left, BitVec.extractLsb'_append_eq_right]
  exact append_fields_4_3 (field_of_fields 7 1 h rfl rfl)

end

/-! The parts of the decoder. -/

section
variable {w : Half}

theorem encode_dp1Instr (op : BitVec 2) (d n x : BitVec 3) :
    encode (dp1Instr op d n x) = 0b00011#5 ++ op ++ x ++ n ++ d := by
  obtain ⟨k, hk, rfl⟩ : ∃ k < 4, op = BitVec.ofNat 2 k := ⟨op.toNat, op.isLt, by simp⟩
  interval_cases k <;> rfl

theorem encode_ls3Instr (op : BitVec 3) (d n m : LoReg) :
    encode (ls3Instr op d n m) = 0b0101#4 ++ op ++ m ++ n ++ d := by
  obtain ⟨k, hk, rfl⟩ : ∃ k < 8, op = BitVec.ofNat 3 k := ⟨op.toNat, op.isLt, by simp⟩
  interval_cases k <;> rfl

theorem encode_dp5Instr (op : BitVec 4) (d m : LoReg) :
    encode (dp5Instr op d m) = 0b010000#6 ++ op ++ m ++ d := by
  obtain ⟨k, hk, rfl⟩ : ∃ k < 16, op = BitVec.ofNat 4 k := ⟨op.toNat, op.isLt, by simp⟩
  interval_cases k <;> rfl

theorem encode_decodeAddSub (h : field w 11 5 = 0b00011#5) : encode (decodeAddSub w) = w :=
  (encode_dp1Instr (field w 9 2) (field w 0 3) (field w 3 3) (field w 6 3)).trans
    (append_fields_3_3_3 (field_of_fields 9 2 h rfl rfl))

theorem encode_decodeLs3 (h : field w 12 4 = 0b0101#4) : encode (decodeLs3 w) = w :=
  (encode_ls3Instr (field w 9 3) (field w 0 3) (field w 3 3) (field w 6 3)).trans
    (append_fields_3_3_3 (field_of_fields 9 3 h rfl rfl))

theorem encode_decodeDp5 (h : field w 10 6 = 0b010000#6) : encode (decodeDp5 w) = w :=
  (encode_dp5Instr (field w 6 4) (field w 0 3) (field w 3 3)).trans (append_fields_3_3 (field_of_fields 6 4 h rfl rfl))

theorem encode_decodeHi (h : field w 10 6 = 0b010001#6) : encode (decodeHi w) = w := by
  have hop {code : Nat} (hcode : (field w 8 2).toNat = code) : field w 8 8 = 0b010001#6 ++ BitVec.ofNat 2 code :=
    field_of_fields _ _ h (field_eq_ofNat hcode) rfl
  unfold decodeHi
  split
  case h_1 hcode => exact append_fields_dp6 (hop hcode)
  case h_2 hcode => exact append_fields_dp6 (hop hcode)
  case h_3 hcode => exact append_fields_dp6 (hop hcode)
  case h_4 h0 h1 h2 =>
    have hcode : (field w 8 2).toNat = 3 := by
      rw [imp_false] at h0 h1 h2
      have hlt := (field w 8 2).isLt
      omega
    have hop9 {b : Bool} (hb : bitAt w 7 = b) : field w 7 9 = 0b010001#6 ++ 0b11#2 ++ BitVec.ofBool b :=
      field_of_fields 7 1 (hop hcode) (field_one hb) rfl
    split
    case isTrue hb => exact append_fields_4_3 (hop9 (b := true) hb)
    case isFalse hb => exact append_fields_4_3 (hop9 (b := false) (eq_false_of_ne_true hb))

theorem encode_decode10110 (h : field w 11 5 = 0b10110#5) : encode (decode10110 w) = w := by
  have hop {code : Nat} (hcode : (field w 8 3).toNat = code) : field w 8 8 = 0b10110#5 ++ BitVec.ofNat 3 code :=
    field_of_fields _ _ h (field_eq_ofNat hcode) rfl
  have hop7 {code : Nat} (hcode : (field w 9 2).toNat = code) : field w 9 7 = 0b10110#5 ++ BitVec.ofNat 2 code :=
    field_of_fields _ _ h (field_eq_ofNat hcode) rfl
  have hhalf : (field w 9 2).toNat = (field w 8 3).toNat / 2 := by rw [toNat_field, toNat_field]; omega
  unfold decode10110
  split
  case h_1 hcode =>
    have hop9 {b : Bool} (hb : bitAt w 7 = b) : field w 7 9 = 0b10110#5 ++ 0b000#3 ++ BitVec.ofBool b :=
      field_of_fields 7 1 (hop hcode) (field_one hb) rfl
    split
    case isTrue hb => exact append_fields_7 (hop9 (b := true) hb)
    case isFalse hb => exact append_fields_7 (hop9 (b := false) (eq_false_of_ne_true hb))
  case h_2 hcode => exact append_fields_8 (hop hcode)
  case h_3 hcode => exact append_fields_9 (hop7 (code := 1) (by omega))
  case h_4 hcode => exact append_fields_9 (hop7 (code := 1) (by omega))
  case h_5 hcode => exact append_fields_8 (hop hcode)
  case h_6 hcode => exact append_fields_8 (hop hcode)
  case h_7 =>
    simp only [imp_false] at *
    have hlt := (field w 8 3).isLt
    exact append_fields_9 (hop7 (code := 3) (by omega))

theorem encode_decode10111 (h : field w 11 5 = 0b10111#5) : encode (decode10111 w) = w := by
  have hop {code : Nat} (hcode : (field w 8 3).toNat = code) : field w 8 8 = 0b10111#5 ++ BitVec.ofNat 3 code :=
    field_of_fields _ _ h (field_eq_ofNat hcode) rfl
  unfold decode10111
  split
  case h_1 hcode => exact append_fields_8 (hop hcode)
  case h_2 hcode => exact append_fields_8 (hop hcode)
  case h_3 hcode => exact append_fields_8 (hop hcode)
  case h_4 hcode => exact append_fields_8 (hop hcode)
  case h_5 =>
    simp only [imp_false] at *
    have hlt := (field w 8 3).isLt
    have hhalf : (field w 10 1).toNat = (field w 8 3).toNat / 4 := by rw [toNat_field, toNat_field]; omega
    have hlow : (field w 10 1).toNat = 0 := by omega
    exact append_fields_10 (field_of_fields 10 1 h (field_eq_ofNat hlow) rfl)

theorem encode_decode1101 (h : field w 12 4 = 0b1101#4) : encode (decode1101 w) = w := by
  have hop {code : Nat} (hcode : (field w 8 4).toNat = code) : field w 8 8 = 0b1101#4 ++ BitVec.ofNat 4 code :=
    field_of_fields _ _ h (field_eq_ofNat hcode) rfl
  unfold decode1101
  split
  case h_16 =>
    simp only [imp_false] at *
    have hlt := (field w 8 4).isLt
    exact append_fields_8 (hop (code := 15) (by omega))
  all_goals next hcode => exact append_fields_8 (hop hcode)

end

theorem encode_decodeHalf (w : Half) : encode (decodeHalf w) = w := by
  have hrow4 {n : Nat} (h : (field w 11 5).toNat / 2 = n) : field w 12 4 = BitVec.ofNat 4 n :=
    field_eq_ofNat (by rw [toNat_field] at h ⊢; omega)
  unfold decodeHalf
  split
  case h_4 h => exact encode_decodeAddSub (field_eq_ofNat h)
  case h_9 h =>
    have hop {b : Bool} (hb : bitAt w 10 = b) : field w 10 6 = 0b01000#5 ++ BitVec.ofBool b :=
      field_of_fields 10 1 (field_eq_ofNat h) (field_one hb) rfl
    split
    case isTrue hb => exact encode_decodeHi (hop (b := true) hb)
    case isFalse hb => exact encode_decodeDp5 (hop (b := false) (eq_false_of_ne_true hb))
  case h_11 h => exact encode_decodeLs3 (hrow4 (n := 5) (by omega))
  case h_12 h => exact encode_decodeLs3 (hrow4 (n := 5) (by omega))
  case h_23 h => exact encode_decode10110 (field_eq_ofNat h)
  case h_24 h => exact encode_decode10111 (field_eq_ofNat h)
  case h_27 h => exact encode_decode1101 (hrow4 (n := 13) (by omega))
  case h_28 h => exact encode_decode1101 (hrow4 (n := 13) (by omega))
  case h_29 h => exact append_fields_11 (field_eq_ofNat h)
  case h_30 h =>
    split
    case isTrue hb => exact append_fields_10_1 (field_eq_ofNat h) hb
    case isFalse hb => exact append_fields_10_1 (field_eq_ofNat h) (eq_false_of_ne_true hb)
  case h_31 h => exact append_fields_11 (field_eq_ofNat h)
  case h_32 =>
    simp only [imp_false] at *
    have hlt := (field w 11 5).isLt
    exact append_fields_11 (field_eq_ofNat (n := 31) (by omega))
  case h_1 h | h_2 h | h_3 h | h_13 h | h_14 h | h_15 h | h_16 h | h_17 h | h_18 h =>
    exact append_fields_5_3_3 (field_eq_ofNat h)
  all_goals next h => exact append_fields_3_8 (field_eq_ofNat h)

/-- Settles O2: each row of the decoder reads every bit of the halfword, as opcode or as operand. -/
theorem encodeAfterDecode : Obligations.EncodeAfterDecode := encode_decodeHalf

end Sys2Proof
end

section
/-! SUPPORT. The opcode table (30_encoding.md R81, R90): no halfword matches two rows, and each matches the row of the
instruction it decodes to. -/

namespace Sys2Proof

/-- If no two elements of a list have a property and one has it, filtering by the property leaves that one. -/
theorem filter_eq_singleton_of_pairwise {α : Type} {p : α → Bool} {l : List α} {x : α}
    (hl : l.Pairwise fun a b => ¬ (p a = true ∧ p b = true)) (hx : x ∈ l) (hp : p x = true) : l.filter p = [x] := by
  induction l with
  | nil => cases hx
  | cons a l ih =>
    obtain ⟨ha, hl⟩ := List.pairwise_cons.mp hl
    rcases List.mem_cons.mp hx with rfl | hx
    · rw [List.filter_cons_of_pos hp, List.filter_eq_nil_iff.mpr fun b hb hpb => ha b hb ⟨hp, hpb⟩]
    · rw [List.filter_cons_of_neg fun hpa => ha x hx ⟨hpa, hp⟩, ih hl hx]

/-- Two rows that disagree on a bit both look at. -/
def OpcodeRow.Apart (r q : OpcodeRow) : Prop := r.bits &&& q.mask ≠ q.bits &&& r.mask

theorem OpcodeRow.Apart.not_both {r q : OpcodeRow} (h : r.Apart q) (w : Half) :
    ¬ (r.matchesHalf w = true ∧ q.matchesHalf w = true) := by
  rintro ⟨hr, hq⟩
  have hr : w &&& r.mask = r.bits := eq_of_beq hr
  have hq : w &&& q.mask = q.bits := eq_of_beq hq
  refine h ?_
  rw [← hr, ← hq, BitVec.and_assoc, BitVec.and_assoc, BitVec.and_comm r.mask]

theorem opcodeRows_pairwise_apart : opcodeRows.Pairwise OpcodeRow.Apart := by
  unfold OpcodeRow.Apart
  decide

theorem opcodeRow_mem (i : Instr) : opcodeRow i ∈ opcodeRows := by
  cases i <;> exact of_decide_eq_true rfl

/-! The row of an instruction is that of its encoding. -/

/-- A row that looks at the bits from `k` upwards matches when they are its opcode. -/
theorem matchesHalf_of_field {r : OpcodeRow} {w : Half} {k len : Nat} {op : BitVec len} (h : field w k len = op)
    (hlen : k + len = 16) (hbits : op.setWidth 16 <<< k = r.bits) (hmask : BitVec.allOnes 16 <<< k = r.mask) :
    r.matchesHalf w = true := by
  subst h
  refine beq_iff_eq.mpr ?_
  rw [← hmask, ← hbits]
  refine BitVec.eq_of_getLsbD_eq fun i hi => ?_
  simp only [BitVec.getLsbD_and, BitVec.getLsbD_shiftLeft, BitVec.getLsbD_setWidth, BitVec.getLsbD_allOnes, field,
    BitVec.getLsbD_extractLsb', hi, decide_true, Bool.true_and]
  by_cases hk : k ≤ i
  · have hlow : i - k < 16 := by omega
    have hin : i - k < len := by omega
    simp only [Nat.not_lt.mpr hk, hlow, hin, decide_true, decide_false, Bool.not_false, Bool.true_and, Bool.and_true,
      Nat.add_sub_cancel' hk]
  · simp only [Nat.not_le.mp hk, decide_true, Bool.not_true, Bool.false_and, Bool.and_false]

/-- The two rows that also look at bit 0 (R91). -/
theorem matchesHalf_blxRow (off : BitVec 10) (b : BitVec 1) :
    OpcodeRow.matchesHalf ⟨0b11101#5 ++ 0#10 ++ b, 0b11111#5 ++ 0#10 ++ 1#1⟩ (0b11101#5 ++ off ++ b) = true := by
  refine beq_iff_eq.mpr ?_
  rw [BitVec.and_append, BitVec.and_append, BitVec.and_zero]
  exact congrArg _ BitVec.and_allOnes

theorem field_opcode_3_3_3 (op : BitVec 7) (x y z : BitVec 3) : field (op ++ x ++ y ++ z) 9 7 = op :=
  (BitVec.extractLsb'_append_eq_of_le (by decide)).trans <|
    (BitVec.extractLsb'_append_eq_of_le (by decide)).trans BitVec.extractLsb'_append_eq_left

theorem field_opcode_3_3 (op : BitVec 10) (x y : BitVec 3) : field (op ++ x ++ y) 6 10 = op :=
  (BitVec.extractLsb'_append_eq_of_le (by decide)).trans BitVec.extractLsb'_append_eq_left

theorem field_opcode_4_3 (op : BitVec 9) (x : BitVec 4) (y : BitVec 3) : field (op ++ x ++ y) 7 9 = op :=
  (BitVec.extractLsb'_append_eq_of_le (by decide)).trans BitVec.extractLsb'_append_eq_left

theorem field_opcode_1_8 (op : BitVec 7) (r : Bool) (list : BitVec 8) :
    field (op ++ BitVec.ofBool r ++ list) 9 7 = op :=
  (field_lsm2_opcode op r list (by decide) 7).trans BitVec.extractLsb'_append_eq_left

theorem opcodeRow_matchesHalf_encode (i : Instr) : (opcodeRow i).matchesHalf (encode i) = true := by
  cases i
  case lslImm | lsrImm | asrImm | strImm | ldrImm | strbImm | ldrbImm | strhImm | ldrhImm =>
    exact matchesHalf_of_field (field_dp4_opcode _ _ _ _) rfl rfl rfl
  case movImm8 | cmpImm8 | addImm8 | subImm8 | ldrPc | strSp | ldrSp | addPc | addRdSp | stmia | ldmia =>
    exact matchesHalf_of_field (field_dp3_opcode _ _ _) rfl rfl rfl
  case addReg | subReg | addImm3 | subImm3 | strReg | strhReg | strbReg | ldrsbReg | ldrReg | ldrhReg | ldrbReg
      | ldrshReg =>
    exact matchesHalf_of_field (field_opcode_3_3_3 _ _ _ _) rfl rfl rfl
  case andReg | eorReg | lslReg | lsrReg | asrReg | adc | sbc | rorReg | tst | neg | cmpReg | cmn | orr | mul | bic
      | mvn =>
    exact matchesHalf_of_field (field_opcode_3_3 _ _ _) rfl rfl rfl
  case addHi | cmpHi | movHi => exact matchesHalf_of_field (field_dp6_opcode _ _ _ (Nat.le_refl 8) 8) rfl rfl rfl
  case bx | blxReg => exact matchesHalf_of_field (field_opcode_4_3 _ _ _) rfl rfl rfl
  case addSp | subSp => exact matchesHalf_of_field (k := 7) (len := 9) BitVec.extractLsb'_append_eq_left rfl rfl rfl
  case push | pop => exact matchesHalf_of_field (field_opcode_1_8 _ _ _) rfl rfl rfl
  case beq | bne | bcs | bcc | bmi | bpl | bvs | bvc | bhi | bls | bge | blt | bgt | ble | swi | undB1 | refuseU9
      | undBF | undDE =>
    exact matchesHalf_of_field (field_opcode8 _ _ (Nat.le_refl 8) 8) rfl rfl rfl
  case b | blFirst | blSecond => exact matchesHalf_of_field (field_opcode5 _ _) rfl rfl rfl
  case undB2 | undB6 => exact matchesHalf_of_field (k := 9) (len := 7) BitVec.extractLsb'_append_eq_left rfl rfl rfl
  case undB8 => exact matchesHalf_of_field (k := 10) (len := 6) BitVec.extractLsb'_append_eq_left rfl rfl rfl
  case blxLabel => exact matchesHalf_blxRow _ 0#1
  case undE8 => exact matchesHalf_blxRow _ 1#1

/-- Settles O3: a halfword matches the row of its instruction, whose encoding it is, and rows are apart. -/
theorem everyHalfwordHasOneRow : Obligations.EveryHalfwordHasOneRow := by
  intro w
  have hmatches := opcodeRow_matchesHalf_encode (decodeHalf w)
  rw [encode_decodeHalf] at hmatches
  exact filter_eq_singleton_of_pairwise (opcodeRows_pairwise_apart.imp fun h => h.not_both w)
    (opcodeRow_mem (decodeHalf w)) hmatches

/-- Settles O4: each word is the encoding of its instruction. -/
theorem wordsDecodeAsWritten : Obligations.WordsDecodeAsWritten :=
  ⟨decodeHalf_encode (.subReg 0#3 1#3 2#3), decodeHalf_encode (.lsrImm 2#3 0#3 24#5),
    decodeHalf_encode (.movHi 15#4 14#4), decodeHalf_encode (.ldrsbReg 3#3 0#3 2#3),
    decodeHalf_encode (.ldrPc 0#3 6#8), decodeHalf_encode (.push true 0x10#8),
    decodeHalf_encode (.stmia 1#3 0x78#8), decodeHalf_encode (.bne 0xFC#8), decodeHalf_encode (.swi 0x11#8),
    decodeHalf_encode (.blxLabel 0x3F#10), decodeHalf_encode (.blSecond 0x77E#11),
    decodeHalf_encode (.refuseU9 1#8)⟩

/-- Settles O22: the halfword is the refused space's, whose meaning is the refusal. -/
theorem section78SpaceRefused : Obligations.Section78SpaceRefused := by
  intro s x
  rw [decodeHalf_refuseU9]
  rfl

end Sys2Proof
end

section
/-! SUPPORT. The byte order (20_memory.md R52): the word that four bytes hold, and what reads see of a word written. -/

namespace Sys2Proof.Machine

theorem toNat_readWord (e : Endian) (m : Memory) (a : Word) : (readWord e m a).toNat = bytesValue e m a 4 := by
  have hb0 := (readByte m a.toNat).isLt
  have hb1 := (readByte m (a + 1#32).toNat).isLt
  have hb2 := (readByte m (a + 2#32).toNat).isLt
  have hb3 := (readByte m (a + 3#32).toNat).isLt
  have hlt : bytesValue e m a 4 < 2 ^ 32 := by
    rw [bytesValue_four]
    cases e with
    | little => simp only [bytePlace]; omega
    | big => simp only [bytePlace]; omega
  rw [readWord_eq_bytesValue, BitVec.toNat_ofNat, Nat.mod_eq_of_lt hlt]

/-! Bytes of a word joined. -/

theorem byteOf_append_byteOf (v : Word) (k : Nat) : byteOf v (k + 1) ++ byteOf v k = v.extractLsb' (8 * k) 16 :=
  BitVec.extractLsb'_append_extractLsb'_eq_extractLsb' rfl

theorem byteOf_append_all (v : Word) : byteOf v 3 ++ byteOf v 2 ++ byteOf v 1 ++ byteOf v 0 = v := by
  have h32 : byteOf v 3 ++ byteOf v 2 = v.extractLsb' 16 16 := byteOf_append_byteOf v 2
  have h321 : v.extractLsb' 16 16 ++ byteOf v 1 = v.extractLsb' 8 24 :=
    BitVec.extractLsb'_append_extractLsb'_eq_extractLsb' rfl
  have h3210 : v.extractLsb' 8 24 ++ byteOf v 0 = v.extractLsb' 0 32 :=
    BitVec.extractLsb'_append_extractLsb'_eq_extractLsb' rfl
  rw [h32, h321, h3210, BitVec.extractLsb'_eq_self]

/-- The word read where a value's bytes lie is the value. -/
theorem readWord_of_holdsBytes {e : Endian} {m : Memory} {a v : Word} (h : HoldsBytes e m a 4 v) :
    readWord e m a = v := by
  have h0 : readByte m a.toNat = byteOf v (bytePlace e 4 0) := by simpa [byteOf] using h 0 (by decide)
  have h1 : readByte m (a + 1#32).toNat = byteOf v (bytePlace e 4 1) := h 1 (by decide)
  have h2 : readByte m (a + 2#32).toNat = byteOf v (bytePlace e 4 2) := h 2 (by decide)
  have h3 : readByte m (a + 3#32).toNat = byteOf v (bytePlace e 4 3) := h 3 (by decide)
  cases e with
  | little => rw [readWord, h0, h1, h2, h3]; exact byteOf_append_all v
  | big => rw [readWord, h0, h1, h2, h3]; exact byteOf_append_all v

theorem holdsBytes_writeWord {m : Memory} (h : m.wf = true) (e : Endian) (a v : Word) :
    HoldsBytes e (writeWord e m a v) a 4 v :=
  fun _ hk => readByte_writeWord_at h e a v hk

/-- The halfword at the two higher addresses of a word written. -/
theorem readHalf_writeWord {m : Memory} (h : m.wf = true) (e : Endian) (a v : Word) :
    readHalf e (writeWord e m a v) (a + 2#32) =
      (match e with
        | .little => v.extractLsb' 16 16
        | .big => v.extractLsb' 0 16) := by
  have h2 : readByte (writeWord e m a v) (a + 2#32).toNat = byteOf v (bytePlace e 4 2) :=
    readByte_writeWord_at h e a v (k := 2) (by decide)
  have h3 : readByte (writeWord e m a v) (a + 2#32 + 1#32).toNat = byteOf v (bytePlace e 4 3) := by
    rw [BitVec.add_assoc]
    exact readByte_writeWord_at h e a v (k := 3) (by decide)
  rw [readHalf, h2, h3]
  cases e with
  | little => exact byteOf_append_byteOf v 2
  | big => exact byteOf_append_byteOf v 0

/-- Settles O50: sums of bytes, and a word written seen whole, by its upper halfword and by its first byte. -/
theorem byteOrderOfAccesses : Obligations.ByteOrderOfAccesses := by
  intro e m a v
  refine ⟨toNat_readWord e m a, toNat_readHalf e m a, fun hwf =>
    ⟨readWord_of_holdsBytes (holdsBytes_writeWord hwf e a v), readHalf_writeWord hwf e a v, ?_,
      writeWord_wf hwf e a v⟩⟩
  have hfirst := readByte_writeWord_at hwf e a v (k := 0) (by decide)
  rw [BitVec.add_zero] at hfirst
  rw [hfirst]
  cases e <;> rfl

end Sys2Proof.Machine
end

section
/-! SUPPORT. Accesses that their checks stop (20_memory.md R53, R55, R56; 44_load_store_multiple.md R250(e)), and the
statements on single transfers that abort or are refused. -/

namespace Sys2Proof.Machine

section
variable {s : State} {k : AccessKind}

/-! The checks of one access. -/

theorem checkAccess_aborts {a : Word} {n : Nat} (h : ¬ Accessible s k a n)
    (hpolicy : s.params.alignPolicy = .fault ∨ a.toNat % n = 0) : checkAccess s k a n = .aborts a := by
  unfold checkAccess
  split
  · next haligned =>
    have hadmits : ¬ admits s.params.mem k a n = true := fun hadm =>
      h (checkAccess_granted_iff_accessible.mp (checkAccess_granted.mpr ⟨haligned, hadm⟩))
    rw [if_neg hadmits]
  · next haligned =>
    rw [hpolicy.resolve_right haligned]

theorem checkAccess_refuses {a : Word} {n : Nat} (hpolicy : s.params.alignPolicy = .refuse) (h : a.toNat % n ≠ 0) :
    checkAccess s k a n = .refuses a := by
  rw [checkAccess, if_neg h, hpolicy]

/-! The first word of a multiple transfer that fails decides. -/

theorem wordAt_zero (a : Word) : wordAt a 0 = a := BitVec.add_zero a

theorem wordAt_succ (a : Word) (j : Nat) : wordAt (a + 4#32) j = wordAt a (j + 1) := by
  rw [wordAt, wordAt, BitVec.add_assoc, ← BitVec.ofNat_add, Nat.mul_succ, Nat.add_comm]

theorem checkWords_cons_granted {a : Word} {as : List Word} (h : checkAccess s k a 4 = .granted) :
    checkWords s k (a :: as) = checkWords s k as := by
  rw [checkWords, h]

theorem checkWords_cons_not_granted {a : Word} {as : List Word} (h : checkAccess s k a 4 ≠ .granted) :
    checkWords s k (a :: as) = checkAccess s k a 4 := by
  unfold checkWords
  split
  · next hg => exact absurd hg h
  · rfl

theorem checkWords_first_failure {a : Word} {j n : Nat} (hj : j < n) (hbefore : ∀ q < j, Accessible s k (wordAt a q) 4)
    (hbad : ¬ Accessible s k (wordAt a j) 4) :
    checkWords s k (wordAddrs a n) = checkAccess s k (wordAt a j) 4 := by
  induction j generalizing a n with
  | zero =>
    obtain ⟨n, rfl⟩ := Nat.exists_eq_succ_of_ne_zero hj.ne'
    rw [wordAt_zero] at hbad ⊢
    exact checkWords_cons_not_granted (checkAccess_granted_iff_accessible.not.mpr hbad)
  | succ j ih =>
    obtain ⟨n, rfl⟩ := Nat.exists_eq_succ_of_ne_zero (Nat.ne_zero_of_lt hj)
    have hfirst : Accessible s k a 4 := wordAt_zero a ▸ hbefore 0 (Nat.succ_pos j)
    rw [wordAddrs, checkWords_cons_granted (checkAccess_granted_iff_accessible.mpr hfirst), ← wordAt_succ]
    refine ih (Nat.lt_of_succ_lt_succ hj) (fun q hq => ?_) ?_
    · rw [wordAt_succ]
      exact hbefore (q + 1) (Nat.succ_lt_succ hq)
    · rwa [wordAt_succ]

end

/-! Single transfers. -/

/-- Every single transfer makes its access under the checks and, where they grant it, moves on. -/
theorem exec_of_accessOf {i : Instr} {s : State} {k : AccessKind} {a : Word} {n : Nat}
    (h : accessOf i s = some (k, a, n)) :
    ∃ u, exec i s = guarded (checkAccess s k a n) s (advance u) ∧ u.pc = s.pc := by
  cases i
  case strReg | strhReg | strbReg | ldrsbReg | ldrReg | ldrhReg | ldrbReg | ldrshReg =>
    cases h
    exact ⟨_, rfl, rfl⟩
  case strImm | ldrImm =>
    rw [accessOf, ← eaWord5_eq] at h
    cases h
    exact ⟨_, rfl, rfl⟩
  case strbImm | ldrbImm =>
    rw [accessOf, ← eaByte5_eq] at h
    cases h
    exact ⟨_, rfl, rfl⟩
  case strhImm | ldrhImm =>
    rw [accessOf, ← eaHalf5_eq] at h
    cases h
    exact ⟨_, rfl, rfl⟩
  case strSp | ldrSp =>
    rw [accessOf, ← eaSp_eq] at h
    cases h
    exact ⟨_, rfl, rfl⟩
  case ldrPc =>
    rw [accessOf, ← eaPc_eq] at h
    cases h
    exact ⟨_, rfl, rfl⟩
  all_goals cases h

/-- Settles O48: the check of the access stops it, and says for which address. -/
theorem misalignedAccessAbortsOrRefuses : Obligations.MisalignedAccessAbortsOrRefuses := by
  intro s i k a n h hmisaligned
  obtain ⟨u, hexec, -⟩ := exec_of_accessOf h
  refine ⟨fun hfault => ?_, fun hrefuse => ?_⟩
  · rw [hexec, checkAccess_aborts (fun hacc => hmisaligned hacc.1) (.inl hfault), guarded]
  · rw [hexec, checkAccess_refuses hrefuse hmisaligned, guarded]

/-- Settles O49: the check of the access stops it, and the state is the entry to the Data abort (O17). -/
theorem unadmittedAccessAborts : Obligations.UnadmittedAccessAborts := by
  rintro s i k a n h haligned ⟨b, hb, hbad⟩
  obtain ⟨u, hexec, -⟩ := exec_of_accessOf h
  have hnot : ¬ Accessible s k a n := fun hacc => Bool.noConfusion (hbad.symm.trans (hacc.2 b hb))
  rw [checkAccess_aborts hnot (.inr haligned), guarded] at hexec
  obtain ⟨hany, -, -, -, hentry⟩ := exceptionEntryAsSpecified s
  obtain ⟨hthumb, hirqMask, hended, hmem⟩ := hany (.dataAbort a)
  obtain ⟨hpc, hmode, hfiqMask, hlink, hregs, hspsr, hspsrs, hflags, hreserved, houtput⟩ :=
    hentry (.dataAbort a) _ _ _ _ _ (.inr (.inr (.inr (.inl ⟨a, rfl⟩))))
  obtain ⟨-, -, hparams, hevents, -⟩ := takeException_common (.dataAbort a) s
  exact ⟨takeException (.dataAbort a) s, hexec, hpc, hmode, hthumb, hirqMask, hlink, Option.some.inj hspsr, hregs,
    hflags, hfiqMask, hreserved, hspsrs, hmem, hparams, hevents, houtput, hended⟩

end Sys2Proof.Machine
end

section
/-! SUPPORT. POP (44_load_store_multiple.md R254): what it loads and changes, with and without the pc; that it undoes
PUSH; and multiple transfers that abort as a whole (R250(e)). -/

namespace Sys2Proof.Machine

/-! The registers and SP as POP leaves them. -/

/-- The state after POP has loaded the list's registers and moved SP past `k` words. -/
def popped (s : State) (list : BitVec 8) (k : Nat) : State :=
  (loadRegs s.params.endian s.mem s ((listRegs list).zip (wordAddrs s.sp k))).setSp (wordAt s.sp k)

/-- The value POP loads into the pc: the word above the list's (R254). -/
def popTarget (s : State) (list : BitVec 8) : Word :=
  readWord s.params.endian s.mem (wordAt s.sp (rank list 8))

section
variable (s : State) (list : BitVec 8)

theorem popped_changesOnly (k : Nat) : ChangesOnly (spOf s :: namedRegs list) s (popped s list k) := by
  have hload := changesOnly_loadRegs_list (a := s.sp) (k := k) s (List.subset_cons_self (spOf s) (namedRegs list))
    s.params.endian s.mem
  obtain ⟨-, hcpsr, -⟩ := loadRegs_fields s.params.endian s.mem s ((listRegs list).zip (wordAddrs s.sp k))
  rw [popped, State.setSp, hcpsr]
  exact changesOnly_setPhys_of_mem hload (List.mem_cons_self ..) _

theorem popped_pc (k : Nat) : (popped s list k).pc = s.pc := (loadRegs_fields _ _ s _).1

theorem popped_sp (k : Nat) : (popped s list k).sp = wordAt s.sp k := State.sp_setSp _ _

theorem popped_lo {k : Nat} (hk : rank list 8 ≤ k) {i : LoReg} (hi : list.getLsbD i.toNat = true) :
    (popped s list k).lo i =
      BitVec.ofNat 32 (bytesValue s.params.endian s.mem (wordAt s.sp (rank list i.toNat)) 4) :=
  (State.lo_setSp _ i _).trans (lo_loadRegs_list s _ _ hk hi)

/-- What POP with the pc does once its words are granted: under v5T bit 0 of the target selects the state (R254). -/
def popBranch : Result :=
  match s.params.arch with
  | .v4T => .next ((popped s list (rank list 8 + 1)).setPc (clearBit0 (popTarget s list)))
  | .v5T => interwork .pop (.popTargetUnaligned (popTarget s list)) (popTarget s list) (popped s list (rank list 8 + 1))

end

section
variable {s : State} {list : BitVec 8}

theorem rank_eq_zero_iff : rank list 8 = 0 ↔ list = 0#8 := by
  revert list
  decide

theorem execPop_eq_advance (hlist : list ≠ 0#8) :
    execPop false list s =
      guarded (checkWords s .read (wordAddrs s.sp (rank list 8))) s (advance (popped s list (rank list 8))) := by
  have hcount : listCount false list = rank list 8 := listCount_eq_rank false list
  simp only [execPop, hcount, rank_eq_zero_iff.not.mpr hlist, if_false, Bool.false_eq_true]
  rfl

theorem execPop_eq_branch :
    execPop true list s =
      guarded (checkWords s .read (wordAddrs s.sp (rank list 8 + 1))) s (popBranch s list) := by
  have hcount : listCount true list = rank list 8 + 1 := listCount_eq_rank true list
  simp only [execPop, hcount, Nat.add_one_ne_zero, if_false, if_true, popPcAddr_eq_wordAt]
  rfl

theorem popBranch_v4T (harch : s.params.arch = .v4T) :
    popBranch s list = .next ((popped s list (rank list 8 + 1)).setPc (clearBit0 (popTarget s list))) := by
  rw [popBranch, harch]

theorem popBranch_v5T (harch : s.params.arch = .v5T) :
    popBranch s list =
      interwork .pop (.popTargetUnaligned (popTarget s list)) (popTarget s list)
        (popped s list (rank list 8 + 1)) := by
  rw [popBranch, harch]

end

theorem decodeHalf_pop_list (list : BitVec 8) : decodeHalf (0b10111100#8 ++ list) = .pop false list :=
  decodeHalf_pop false list

theorem decodeHalf_pop_pc (list : BitVec 8) : decodeHalf (0b10111101#8 ++ list) = .pop true list :=
  decodeHalf_pop true list

/-- Settles O54: the registers loaded and SP moved, then on to the next instruction. -/
theorem popRegisters : Obligations.PopRegisters := by
  intro s list
  refine ⟨decodeHalf_pop_list list, ?empty, fun htop hlist hacc => ?loads⟩
  case empty =>
    rintro rfl
    exact execPop_empty s
  case loads =>
    have hexec := execPop_eq_advance (s := s) hlist
    rw [checkWords_wordAddrs_granted.mpr hacc, guarded] at hexec
    obtain ⟨hadvance, hflags, hmoves⟩ := advance_of_changesOnly htop (popped_pc s list _) (popped_changesOnly s list _)
    exact ⟨_, hexec.trans hadvance, fun i hi => popped_lo s list (Nat.le_refl _) hi, popped_sp s list _, hflags, hmoves⟩

/-- The interworking branch where bit 0 of the target is set, and where bits [1:0] are 00 (R125). -/
theorem interwork_thumb {v : Word} (h : v.getLsbD 0 = true) (c : Cause) (bad : Refusal) (s : State) :
    interwork c bad v s = .next ((s.setCpsr { s.cpsr with t := true }).setPc (clearBit0 v)) := if_pos h

theorem interwork_arm {v : Word} (h0 : v.getLsbD 0 = false) (h1 : v.getLsbD 1 = false) (c : Cause) (bad : Refusal)
    (s : State) :
    interwork c bad v s = .next (((s.setCpsr { s.cpsr with t := false }).setPc v).finish (.leftThumb c)) := by
  rw [interwork, h0, h1]
  rfl

/-- Settles O55: the version and the two bits of the target choose between the refusal and the three branches. -/
theorem popProgramCounter : Obligations.PopProgramCounter := by
  intro s list v
  refine ⟨decodeHalf_pop_pc list, fun hacc hv => ⟨fun harch h0 h1 => execPop_unaligned harch hacc hv h0 h1,
    fun htarget => ?completes⟩⟩
  have hgranted : checkWords s .read (wordAddrs s.sp (rank list 8 + 1)) = .granted :=
    checkWords_wordAddrs_granted.mpr fun j hj => hacc j (Nat.le_of_lt_succ hj)
  have hexec : exec (.pop true list) s = popBranch s list := by
    refine execPop_eq_branch.trans ?_
    rw [hgranted, guarded]
  obtain rfl : popTarget s list = v := by rw [popTarget, readWord_eq_bytesValue, hv]
  have hlo {i : LoReg} (hi : list.getLsbD i.toNat = true) := popped_lo s list (Nat.le_succ (rank list 8)) hi
  have hsp := popped_sp s list (rank list 8 + 1)
  have hchanges := popped_changesOnly s list (rank list 8 + 1)
  cases harch : s.params.arch with
  | v4T =>
    obtain ⟨⟨hregs, hsystem, hstate⟩, hflags, hmem⟩ := hchanges
    exact ⟨_, hexec.trans (popBranch_v4T harch), fun i hi => hlo hi, hsp, hregs, hsystem, hflags, hmem,
      fun _ => ⟨rfl, hstate⟩, (nomatch ·), (nomatch ·)⟩
  | v5T =>
    rw [popBranch_v5T harch] at hexec
    cases h0 : (popTarget s list).getLsbD 0 with
    | true =>
      obtain ⟨hregs, hsystem, hflags, hmem, hthumb, hended⟩ := staysThumb_of_changesOnly hchanges
        (clearBit0 (popTarget s list))
      exact ⟨_, hexec.trans (interwork_thumb h0 _ _ _), fun i hi => hlo hi, hsp, hregs, hsystem, hflags, hmem,
        (nomatch ·), fun _ _ => ⟨rfl, hthumb, hended⟩, fun _ h => nomatch h⟩
    | false =>
      have h1 : (popTarget s list).getLsbD 1 = false :=
        (htarget.resolve_left fun h => nomatch harch.symm.trans h).resolve_left fun h => nomatch h0.symm.trans h
      obtain ⟨hregs, hsystem, hflags, hmem, hthumb, hended⟩ := leavesThumb_of_changesOnly hchanges .pop
        (popTarget s list)
      exact ⟨_, hexec.trans (interwork_arm h0 h1 _ _ _), fun i hi => hlo hi, hsp, hregs, hsystem, hflags, hmem,
        (nomatch ·), fun _ h => (nomatch h), fun _ _ => ⟨rfl, hthumb, hended⟩⟩

/-! A word that fails its checks stops the whole transfer. -/

section
variable {s : State} {n : LoReg} {r : Bool} {list : BitVec 8} {i : Instr} {k : AccessKind} {a : Word} {size : Nat}

/-- The multiple transfers, each with the kind, start and number of the words it moves; STMIA and LDMIA not of their
own base. -/
def TransfersWords (s : State) (n : LoReg) (r : Bool) (list : BitVec 8) (i : Instr) (k : AccessKind) (a : Word)
    (size : Nat) : Prop :=
  (i, k, a, size) = (.stmia n list, .write, s.lo n, rank list 8) ∧ list.getLsbD n.toNat = false ∨
  (i, k, a, size) = (.ldmia n list, .read, s.lo n, rank list 8) ∧ list.getLsbD n.toNat = false ∨
  (i, k, a, size) =
    (.push r list, .write, s.sp - BitVec.ofNat 32 (4 * (rank list 8 + r.toNat)), rank list 8 + r.toNat) ∨
  (i, k, a, size) = (.pop r list, .read, s.sp, rank list 8 + r.toNat)

/-- A multiple transfer of at least one word does nothing before all its words are checked (R250(e)). -/
theorem exec_of_transfersWords (h : TransfersWords s n r list i k a size) (hsize : size ≠ 0) :
    ∃ done, exec i s = guarded (checkWords s k (wordAddrs a size)) s done := by
  rcases h with ⟨h, hbase⟩ | ⟨h, hbase⟩ | h | h
  · cases h
    exact ⟨_, execStmia_eq (rank_eq_zero_iff.not.mp hsize) hbase s⟩
  · cases h
    exact ⟨_, execLdmia_eq (rank_eq_zero_iff.not.mp hsize) hbase s⟩
  · cases h
    rw [← pushStart_eq]
    exact ⟨_, execPush_eq hsize s⟩
  · cases h
    cases r with
    | false => exact ⟨_, execPop_eq_advance (rank_eq_zero_iff.not.mp hsize)⟩
    | true => exact ⟨_, execPop_eq_branch⟩

end

/-- Settles O56: the first failing word decides the check of the whole transfer. -/
theorem multipleTransferAbortsWhole : Obligations.MultipleTransferAbortsWhole := by
  intro s n r list j i k a size h hj hbefore hbad
  obtain ⟨done, hexec⟩ := exec_of_transfersWords h (Nat.ne_zero_of_lt hj)
  rw [checkWords_first_failure hj hbefore hbad] at hexec
  refine ⟨fun habort => ?_, fun hrefuse hmisaligned => ?_⟩
  · rw [hexec, checkAccess_aborts hbad habort, guarded]
  · rw [hexec, checkAccess_refuses hrefuse hmisaligned, guarded]

/-! POP after PUSH. -/

/-- A PUSH that gives a running state was granted and stood below the last halfword. -/
theorem execPush_completes {s t : State} {r : Bool} {list : BitVec 8} (hk : rank list 8 + r.toNat ≠ 0)
    (h : execPush r list s = .next t) (hended : t.ended = none) :
    NotTop s ∧ ∀ j < rank list 8 + r.toNat, Accessible s .write (wordAt (pushStart s r list) j) 4 := by
  rw [execPush_eq hk] at h
  rcases guarded_next h with ⟨hgranted, hdone⟩ | ⟨a, -, rfl⟩
  · obtain ⟨htop, -⟩ := advance_next.mp hdone
    exact ⟨htop, checkWords_wordAddrs_granted.mp hgranted⟩
  · obtain ⟨-, -, -, -, -, -, habort⟩ := takeException_common (.dataAbort a) s
    cases hended.symm.trans habort

/-- Settles O57: PUSH leaves each register's value in the word at its rank above the new SP, where POP finds it. -/
theorem popUndoesPush : Obligations.PopUndoesPush := by
  intro s list t _hrunning hwf hlist hreadable hpush hended u hmem hparams hcpsr hsp htop
  obtain ⟨htopPush, hwritable⟩ := execPush_completes (r := false) (rank_eq_zero_iff.not.mpr hlist) hpush hended
  obtain ⟨-, -, -, hpushes⟩ := pushRegisters s false list (rank list 8) _ rfl rfl
  obtain ⟨t', ht', hwords, -, -, htsp, ⟨-, ⟨-, -, -, -, -, htparams, -⟩, -⟩, -⟩ :=
    hpushes htopPush hwf (rank_eq_zero_iff.not.mpr hlist) (pushStart_eq s false list ▸ hwritable)
  obtain rfl : t' = t := Host.Outcome.next.inj (ht'.symm.trans hpush)
  have husp : u.sp = s.sp - BitVec.ofNat 32 (4 * rank list 8) := by
    rw [State.sp, hcpsr]
    exact hsp.trans htsp
  obtain ⟨-, -, hpops⟩ := popRegisters u list
  obtain ⟨w, hw, hloads, hwsp, -⟩ := hpops htop hlist (by
    rw [husp]
    simpa only [Accessible, hparams, htparams] using hreadable)
  refine ⟨w, hw, ?sp, fun i hi => ?lo⟩
  case sp => rw [hwsp, husp, wordAt, BitVec.sub_add_cancel]
  case lo =>
    rw [hloads i hi, hmem, hparams, husp, htparams, ← readWord_eq_bytesValue]
    exact readWord_of_holdsBytes (hwords i hi)

end Sys2Proof.Machine
end

section
/-! SUPPORT. MUL (42_data_processing.md R175) with its free C flag under v4T (U11). -/

namespace Sys2Proof.Machine

/-- The status register after a MUL of result `r` (R150, U11). -/
def mulStatus (s : State) (r : Word) : PSR :=
  match s.params.arch with
  | .v5T => s.cpsr.withNZ r
  | .v4T => (s.cpsr.withNZ r).withC (Config.freeBit s.freeIdx)

/-- How many free bits a MUL draws (log entry 9). -/
def mulDraws (s : State) : Nat :=
  match s.params.arch with
  | .v5T => 0
  | .v4T => 1

theorem sameButFlags_mulStatus (s : State) (r : Word) : SameButFlags s.cpsr (mulStatus s r) := by
  unfold mulStatus
  split <;> exact ⟨rfl, rfl, rfl, rfl, rfl⟩

theorem execMul_eq {s : State} {d m : LoReg} (h : d ≠ m ∨ s.params.mulSameReg = .compute) :
    execMul d m s =
      advance (((s.setLo d (s.lo m * s.lo d)).setCpsr (mulStatus s (s.lo m * s.lo d))).drawFree (mulDraws s)) := by
  have hdefined : ¬ (d = m ∧ s.params.mulSameReg = .refuse) := by
    rintro ⟨hsame, hrefuse⟩
    rcases h with h | h
    · exact h hsame
    · cases hrefuse.symm.trans h
  have hcarry (u : State) (hparams : u.params = s.params) (hfree : u.freeIdx = s.freeIdx)
      (hcpsr : u.cpsr = s.cpsr.withNZ (s.lo m * s.lo d)) :
      mulCarry u = (u.setCpsr (mulStatus s (s.lo m * s.lo d))).drawFree (mulDraws s) := by
    rw [mulCarry, mulStatus, mulDraws, hparams, hfree, hcpsr]
    cases s.params.arch with
    | v4T => rfl
    | v5T => rw [← hcpsr]; rfl
  rw [execMul, if_neg hdefined]
  exact congrArg advance (hcarry _ rfl rfl rfl)

theorem mulFlags_of_mulStatus (s t : State) {r : Word} (hcpsr : t.cpsr = mulStatus s r)
    (hfree : t.freeIdx = s.freeIdx + mulDraws s) : MulFlags s t r := by
  rw [MulFlags, hcpsr, hfree, mulStatus, mulDraws]
  cases s.params.arch with
  | v4T => exact ⟨nzOf_of_msb rfl rfl, rfl, (nomatch ·), fun _ => ⟨rfl, rfl⟩⟩
  | v5T => exact ⟨nzOf_of_msb rfl rfl, rfl, fun _ => ⟨rfl, rfl⟩, (nomatch ·)⟩

/-- Settles O32: a register and the flags written and the free bits drawn, then on to the next instruction. -/
theorem multiplyLowProduct : Obligations.MultiplyLowProduct := by
  intro s d m
  refine ⟨decodeHalf_dp5 0b1101#4 m d, ?same, fun htop hdefined => ?product⟩
  case same =>
    rintro rfl hrefuse
    exact execMul_same hrefuse d
  case product =>
    obtain ⟨⟨hregs, hsystem, hstate⟩, hmem, hpc⟩ := movesOn_of_sameButFlags
      (changesOnly_setPhys s (.lo d) (s.lo m * s.lo d)) (sameButFlags_mulStatus s (s.lo m * s.lo d))
    obtain ⟨hspsr, hreserved, hi, hf, hm, hparams, hevents, hstepNo, houtput, -⟩ := hsystem
    refine ⟨_, (execMul_eq hdefined).trans (advance_eq htop), ?value, ?flags, hregs, hspsr, hreserved, hi, hf, hm,
      hparams, hevents, hstepNo, houtput, hstate, hmem, hpc⟩
    case value =>
      refine (congrArg BitVec.toNat (s.lo_setLo_same d (s.lo m * s.lo d))).trans ?_
      rw [BitVec.toNat_mul, Nat.mul_comm]
    case flags =>
      refine Eq.subst (motive := MulFlags s _) (s.lo_setLo_same d (s.lo m * s.lo d)).symm ?_
      exact mulFlags_of_mulStatus s _ rfl rfl

end Sys2Proof.Machine
end

section
/-! SUPPORT. The BL and BLX pairs (40_branch.md R122 to R124, 30_encoding.md R87): the two halves of an offset as an
assembler splits it, put together again by the two instructions. -/

namespace Sys2Proof.Machine

/-! Parities of words. -/

theorem getLsbD_zero_eq_false_iff {v : Word} : v.getLsbD 0 = false ↔ v.toNat % 2 = 0 := by
  rw [BitVec.getLsbD, Nat.testBit_zero, decide_eq_false_iff_not]
  omega

theorem getLsbD_zero_one_eq_false_iff {v : Word} :
    (v.getLsbD 0 = false ∧ v.getLsbD 1 = false) ↔ v.toNat % 4 = 0 := by
  rw [getLsbD_zero_eq_false_iff, BitVec.getLsbD, Nat.testBit_succ, Nat.testBit_zero, decide_eq_false_iff_not]
  omega

theorem clearBit0_of_even {v : Word} (h : v.getLsbD 0 = false) : clearBit0 v = v := by
  have hbits : ∀ i < 32, (0xFFFFFFFE#32).getLsbD i = decide (i ≠ 0) := by decide
  refine BitVec.eq_of_getLsbD_eq fun i hi => ?_
  rw [clearBit0, BitVec.getLsbD_and, hbits i hi]
  by_cases h0 : i = 0
  · rw [h0, h, Bool.false_and]
  · rw [decide_eq_true h0, Bool.and_true]

/-- Setting bit 0 of an even word adds 1 (R123). -/
theorem or_one_of_even {v : Word} (h : v.getLsbD 0 = false) : v ||| 1#32 = v + 1#32 := by
  refine (BitVec.add_eq_or_of_and_eq_zero v 1#32 ?_).symm
  refine BitVec.eq_of_getLsbD_eq fun i hi => ?_
  by_cases h0 : i = 0
  · rw [h0, BitVec.getLsbD_and, h, Bool.false_and, BitVec.getLsbD_zero]
  · rw [BitVec.getLsbD_and, BitVec.getLsbD_one, decide_eq_false h0, Bool.and_false, Bool.and_false,
      BitVec.getLsbD_zero]

/-! The halves of an offset. -/

/-- An opcode joined to eleven bits, as an assembler joins them (30_encoding.md section 6). -/
theorem opcode_or_offset (op : BitVec 5) (x : BitVec 11) : (op ++ 0#11) ||| x.setWidth 16 = op ++ x := by
  have hx : x.setWidth 16 = 0#5 ++ x := BitVec.setWidth_eq_append (by decide)
  rw [hx, BitVec.or_append, BitVec.or_zero, BitVec.zero_or]

/-- An offset within reach is its upper eleven bits times 4096 and its lower eleven times 2. -/
theorem offset_eq_halves {off : Word} (hlow : -4194304 ≤ off.toInt) (hhigh : off.toInt ≤ 4194302)
    (heven : off.toNat % 2 = 0) :
    blUpperOffset (off.extractLsb' 12 11) + zext2 (off.extractLsb' 1 11) = off := by
  have hint : off.toInt = 4096 * (off.extractLsb' 12 11).toInt + (2 * (off.extractLsb' 1 11).toNat : Nat) := by
    rw [BitVec.toInt_eq_toNat_cond] at hlow hhigh ⊢
    rw [BitVec.toInt_eq_toNat_cond, BitVec.extractLsb'_toNat, BitVec.extractLsb'_toNat, Nat.shiftRight_eq_div_pow,
      Nat.shiftRight_eq_div_pow]
    have hlt := off.isLt
    split at hlow <;> split <;> omega
  rw [blUpperOffset_eq, zext2_eq, ← BitVec.ofInt_natCast, ← BitVec.ofInt_add, ← hint, BitVec.ofInt_toInt]

/-- An offset that counts words has a lower half that ends in 0. -/
theorem lowerHalf_append_zero {off : Word} (hword : off.toNat % 4 = 0) :
    off.extractLsb' 2 10 ++ 0#1 = off.extractLsb' 1 11 := by
  apply BitVec.eq_of_toNat_eq
  rw [toNat_append_add, BitVec.extractLsb'_toNat, BitVec.extractLsb'_toNat, Nat.shiftRight_eq_div_pow,
    Nat.shiftRight_eq_div_pow]
  simp only [BitVec.toNat_ofNat]
  omega

/-! The pair. -/

/-- The state between the halves. -/
def afterFirstHalf (s : State) (x : BitVec 11) : State :=
  (s.setLr (s.pcValue + blUpperOffset x)).setPc (s.pc + 2#32)

theorem exec_firstHalf {s : State} (htop : NotTop s) (x : BitVec 11) :
    exec (decodeHalf (0xF000#16 ||| x.setWidth 16)) s = .next (afterFirstHalf s x) := by
  have hdecode : decodeHalf (0xF000#16 ||| x.setWidth 16) = .blFirst x :=
    (congrArg decodeHalf (opcode_or_offset 0b11110#5 x)).trans (decodeHalf_blFirst x)
  rw [hdecode]
  exact advance_eq (s := s.setLr (s.pcValue + blUpperOffset x)) htop

theorem afterFirstHalf_lr (s : State) (x : BitVec 11) :
    (afterFirstHalf s x).lr = s.pc + 4#32 + blUpperOffset x :=
  State.lr_setLr s _

/-- The link both pairs leave: the address after the second half, bit 0 set. -/
theorem afterFirstHalf_link {s : State} (heven : s.pc.getLsbD 0 = false) (x : BitVec 11) :
    linkValue (afterFirstHalf s x) = s.pc + 5#32 := by
  have hnext : (s.pc + 2#32 + 2#32).getLsbD 0 = false := by
    rw [getLsbD_zero_eq_false_iff] at heven ⊢
    simp only [BitVec.toNat_add, BitVec.toNat_ofNat]
    omega
  refine (or_one_of_even hnext).trans ?_
  rw [BitVec.add_assoc, BitVec.add_assoc]
  rfl

theorem exec_blSecond_half (t : State) (x : BitVec 11) :
    exec (decodeHalf (0xF800#16 ||| x.setWidth 16)) t =
      .next ((t.setLr (linkValue t)).setPc (clearBit0 (t.lr + zext2 x))) := by
  have hdecode : decodeHalf (0xF800#16 ||| x.setWidth 16) = .blSecond x :=
    (congrArg decodeHalf (opcode_or_offset 0b11111#5 x)).trans (decodeHalf_blSecond x)
  rw [hdecode]
  rfl

theorem exec_blxSecond_half {t : State} (harch : t.params.arch = .v5T) (y : BitVec 10) :
    exec (decodeHalf (0xE800#16 ||| (y ++ 0#1).setWidth 16)) t =
      .next ((((t.setLr (linkValue t)).setCpsr { (t.setLr (linkValue t)).cpsr with t := false }).setPc
        (clearBits10 (t.lr + zext2 (y ++ 0#1)))).finish (.leftThumb .blx)) := by
  have hword : 0xE800#16 ||| (y ++ 0#1).setWidth 16 = 0b11101#5 ++ y ++ 0#1 :=
    (opcode_or_offset 0b11101#5 (y ++ 0#1)).trans (BitVec.append_assoc'.trans (BitVec.cast_eq rfl _))
  have hdecode : decodeHalf (0xE800#16 ||| (y ++ 0#1).setWidth 16) = .blxLabel y :=
    (congrArg decodeHalf hword).trans (decodeHalf_blxRow y 0#1)
  rw [hdecode]
  exact execBlxLabel_v5T harch y

/-- LR as the exchange of states leaves it. -/
theorem lr_exchanged (t : State) (link target : Word) (c : Cause) :
    ((((t.setLr link).setCpsr { (t.setLr link).cpsr with t := false }).setPc target).finish (.leftThumb c)).lr = link :=
  State.lr_setLr t link

/-- Rounding down to a word ignores an offset that counts words. -/
theorem clearBits10_add_word {off : Word} (hword : off.toNat % 4 = 0) (a : Word) :
    clearBits10 (a + off) = clearBits10 a + off := by
  rw [clearBits10_eq, clearBits10_eq]
  apply BitVec.eq_of_toNat_eq
  simp only [BitVec.toNat_add, BitVec.toNat_ofNat]
  omega

/-- Settles O42: LR carries pc + 4 and the upper half from the first instruction to the second, which adds the lower. -/
theorem branchLinkPairReachesTarget : Obligations.BranchLinkPairReachesTarget := by
  intro s g off htop heven hlow hhigh
  have hfirst := exec_firstHalf htop (off.extractLsb' 12 11)
  have hlr := afterFirstHalf_lr s (off.extractLsb' 12 11)
  have hlink := afterFirstHalf_link heven (off.extractLsb' 12 11)
  have hpc4 : (s.pc + 4#32).toNat % 2 = 0 := by
    rw [getLsbD_zero_eq_false_iff] at heven
    simp only [BitVec.toNat_add, BitVec.toNat_ofNat]
    omega
  refine ⟨fun hoff hg => ?bl, fun hoff hg0 hg1 harch => ?blx⟩
  case bl =>
    have hoffEven : off.toNat % 2 = 0 := by
      rw [getLsbD_zero_eq_false_iff] at hg
      rw [hoff, BitVec.toNat_sub]
      omega
    have hsecond := exec_blSecond_half (afterFirstHalf s (off.extractLsb' 12 11)) (off.extractLsb' 1 11)
    refine ⟨_, _, hfirst, hsecond, ?thumbTarget, ?thumbLink, ?thumbState⟩
    case thumbLink => rw [State.lr_setPc, State.lr_setLr, hlink]
    case thumbState => exact ⟨rfl, rfl⟩
    rw [State.setPc_pc, hlr, BitVec.add_assoc, offset_eq_halves hlow hhigh hoffEven, hoff, BitVec.add_comm,
      BitVec.sub_add_cancel, clearBit0_of_even hg]
  case blx =>
    have hoffWord : off.toNat % 4 = 0 := by
      have hgWord : g.toNat % 4 = 0 := getLsbD_zero_one_eq_false_iff.mp ⟨hg0, hg1⟩
      have hbase := clearBits10_eq (s.pc + 4#32)
      rw [clearBits10] at hbase
      rw [hoff, hbase, BitVec.toNat_sub, BitVec.toNat_ofNat]
      omega
    have hsecond := exec_blxSecond_half (t := afterFirstHalf s (off.extractLsb' 12 11)) harch (off.extractLsb' 2 10)
    rw [lowerHalf_append_zero hoffWord] at hsecond
    refine ⟨_, _, hfirst, hsecond, ?armTarget, ?armLink, rfl, rfl⟩
    case armLink => rw [lr_exchanged, hlink]
    rw [State.finish_pc, State.setPc_pc, hlr, BitVec.add_assoc, offset_eq_halves hlow hhigh (by omega),
      clearBits10_add_word hoffWord, hoff, clearBits10, BitVec.add_comm, BitVec.sub_add_cancel]

end Sys2Proof.Machine
end

section
/-! SUPPORT. Which register a number names (10_state.md R24, 30_encoding.md R88), the semihost calls (41_swi.md R141)
and the return from an exception (60_exceptions.md R283, R284). -/

namespace Sys2Proof.Machine

/-! Register numbers. -/

/-- Numbers 8 to 12: the FIQ copies in FIQ mode, the common ones in every other. -/
theorem physOf_mid (m : Mode) {i : Reg} {k : Fin 5} (h : i.toNat = 8 + k.val) :
    physOf m i = some (if m = .fiq then .midFiq k else .mid k) := by
  have hlo : ¬ i.toNat < 8 := by omega
  have hmid : i.toNat < 13 := by omega
  have hk : (⟨i.toNat - 8, by omega⟩ : Fin 5) = k := Fin.ext (by simp only; omega)
  rw [physOf, if_neg hlo, dif_pos hmid, hk]
  split
  · rfl
  · rfl

theorem physOf_sp (m : Mode) : physOf m 13#4 = some (.sp (bankOf m)) := by cases m <;> rfl

theorem physOf_lr (m : Mode) : physOf m 14#4 = some (.lr (bankOf m)) := by cases m <;> rfl

/-- Settles O58: the four ranges of register numbers, and reading by number through them. -/
theorem registerNumbersNameBankedRegisters : Obligations.RegisterNumbersNameBankedRegisters := by
  intro s m n k i
  refine ⟨physOf_lo m n, fun hi => ⟨physOf_mid .fiq hi, fun hm => ?midCopy⟩, physOf_sp m, physOf_lr m,
    (physOf_eq_none m 15#4).mpr rfl, reg_of_physOf (physOf_lo _ n), rfl, fun hi => reg_of_physOf (physOf_mid _ hi),
    reg_of_physOf (physOf_sp _), rfl, reg_of_physOf (physOf_lr _), rfl, reg_pc s, rfl, rfl, rfl, rfl, rfl, rfl, rfl,
    rfl⟩
  rw [physOf_mid m hi, if_neg hm]

/-! Semihost calls. -/

section
variable {s : State}

theorem execSwi_semihost (henv : s.params.swiEnv = .semihost) (imm : BitVec 8) :
    execSwi imm s =
      if imm = 0x00#8 then advance (s.putOutput (byteOf (s.lo 0#3) 0))
      else if imm = 0x11#8 then advance (s.finish .exited)
      else .refused (.semihostCall imm) := by
  rw [execSwi, henv]

theorem exec_swi_writeC (henv : s.params.swiEnv = .semihost) :
    exec (.swi 0x00#8) s = advance (s.putOutput (byteOf (s.lo 0#3) 0)) :=
  (execSwi_semihost henv 0x00#8).trans (if_pos rfl)

theorem exec_swi_exit (henv : s.params.swiEnv = .semihost) : exec (.swi 0x11#8) s = advance (s.finish .exited) :=
  (execSwi_semihost henv 0x11#8).trans ((if_neg (by decide)).trans (if_pos rfl))

theorem exec_swi_other (henv : s.params.swiEnv = .semihost) {imm : BitVec 8} (h0 : imm ≠ 0x00#8) (h11 : imm ≠ 0x11#8) :
    exec (.swi imm) s = .refused (.semihostCall imm) :=
  (execSwi_semihost henv imm).trans ((if_neg h0).trans (if_neg h11))

end

/-- Settles O21: the number chooses between output, the end of the run and the refusal. -/
theorem semihostCalls : Obligations.SemihostCalls := by
  intro s henv
  exact ⟨fun htop => ⟨_, (exec_swi_writeC henv).trans (advance_eq htop), rfl, rfl⟩,
    fun htop => (exec_swi_exit henv).trans (advance_eq htop), fun imm h0 h11 => exec_swi_other henv h0 h11⟩

/-! The return from an exception. -/

/-- The state the handler's return gives after an exception's entry (R283, R284). -/
def returned (e : Exc) (s : State) : State :=
  { enterException e s with
    pc := returnLink e s - returnAdjust e, cpsr := s.cpsr, ended := none }

theorem returnFromException_enterException {e : Exc} {s : State} (hthumb : s.cpsr.t = true) :
    returnFromException (returnAdjust e) (enterException e s) = some (returned e s) := by
  have hlr : (enterException e s).lr = returnLink e s := enterException_link e s
  have hspsr : (enterException e s).spsr.get (bankOf (enterException e s).cpsr.m) = some s.cpsr :=
    enterException_savedStatus e s
  simp only [returnFromException, hspsr, hlr, hthumb, if_true, returned]

/-- Where execution resumes: after a SWI or an undefined instruction, at the instruction itself after the others. -/
def resumeAddress (e : Exc) (pc : Word) : Word :=
  match e with
  | .undefinedInstruction => pc + 2#32
  | .softwareInterrupt _ => pc + 2#32
  | _ => pc

theorem returned_pc {e : Exc} (h : e ≠ .reset) (s : State) : (returned e s).pc = resumeAddress e s.pc := by
  cases e
  case reset => exact absurd rfl h
  case undefinedInstruction | softwareInterrupt => exact BitVec.sub_zero _
  case prefetchAbort | irq | fiq => exact BitVec.add_sub_cancel s.pc 4#32
  case dataAbort => exact BitVec.add_sub_cancel s.pc 8#32

/-- Settles O18: the entry saved the CPSR, and its link less the adjustment is where execution resumes. -/
theorem returnUndoesExceptionEntry : Obligations.ReturnUndoesExceptionEntry := by
  rintro s e he ⟨-, hthumb⟩
  refine ⟨returned e s, ?returns, ⟨rfl, hthumb⟩, rfl, ?resumes⟩
  case returns => rw [takeException_eq he, returnFromException_enterException hthumb]
  case resumes =>
    rw [returned_pc he]
    cases e <;> rfl

end Sys2Proof.Machine
end

section
/-! SUPPORT. What one instruction can do to the machine, said once for all of them: it stays within the registers of
its mode and the bytes admitted for write, or it takes an exception; and it never faults. -/

namespace Sys2Proof.Machine

/-! What an instruction that takes no exception may change. -/

/-- A memory that differs from the state's in bytes admitted for write alone, and is canonical where that is. -/
def WritesAdmitted (s : State) (m : Memory) : Prop :=
  s.mem.wf = true → m.wf = true ∧ ∀ a, admitsByte s.params.mem .write a = false → readByte m a = readByte s.mem a

/-- Two status registers that agree on the mode, the masks and the reserved bits. -/
def SameControl (p q : PSR) : Prop := q.m = p.m ∧ q.i = p.i ∧ q.f = p.f ∧ q.reserved = p.reserved

/-- Nothing has changed but the pc, T, the run's end, the flags, the output, the free values, the registers that the
mode names and bytes admitted for write. -/
structure WithinMode (s t : State) : Prop where
  params : t.params = s.params
  events : t.events = s.events
  stepNo : t.stepNo = s.stepNo
  spsr : t.spsr = s.spsr
  control : SameControl s.cpsr t.cpsr
  regs : ∀ p, (∀ i : Reg, physOf s.cpsr.m i ≠ some p) → t.regs.get p = s.regs.get p
  mem : WritesAdmitted s t.mem

/-- As `WithinMode`, with the pc, T and the run's end unchanged too: the part of an instruction before it moves on. -/
structure Updates (s t : State) : Prop extends WithinMode s t where
  pc : t.pc = s.pc
  thumb : t.cpsr.t = s.cpsr.t
  ended : t.ended = s.ended

namespace Updates
variable {s t : State}

theorem refl (s : State) : Updates s s where
  params := rfl
  events := rfl
  stepNo := rfl
  spsr := rfl
  control := ⟨rfl, rfl, rfl, rfl⟩
  regs := fun _ _ => rfl
  mem := fun hwf => ⟨hwf, fun _ _ => rfl⟩
  pc := rfl
  thumb := rfl
  ended := rfl

/-- A write to a register that the mode names. -/
theorem setPhys (h : Updates s t) {i : Reg} {p : PhysReg} (hp : physOf s.cpsr.m i = some p) (v : Word) :
    Updates s (t.setPhys p v) :=
  { h with
    regs := fun q hq =>
      (RegFile.get_set_ne t.regs (fun he => hq i (hp.trans (congrArg some he.symm))) v).trans (h.regs q hq) }

theorem setLo (h : Updates s t) (d : LoReg) (v : Word) : Updates s (t.setLo d v) := h.setPhys (physOf_lo _ d) v

theorem setSp (h : Updates s t) (v : Word) : Updates s (t.setSp v) := by
  obtain ⟨hm, -⟩ := h.control
  rw [State.setSp, hm]
  exact h.setPhys (physOf_sp _) v

theorem setLr (h : Updates s t) (v : Word) : Updates s (t.setLr v) := by
  obtain ⟨hm, -⟩ := h.control
  rw [State.setLr, hm]
  exact h.setPhys (physOf_lr _) v

theorem setFlags (h : Updates s t) {p : PSR} (hp : SameButFlags s.cpsr p) : Updates s (t.setCpsr p) :=
  have ⟨hreserved, hi, hf, ht, hm⟩ := hp
  { h with
    control := ⟨hm, hi, hf, hreserved⟩
    thumb := ht }

theorem setMem (h : Updates s t) {m : Memory} (hm : WritesAdmitted s m) : Updates s (t.setMem m) :=
  { h with mem := hm }

theorem putOutput (h : Updates s t) (b : Byte) : Updates s (t.putOutput b) := { h with }

theorem drawFree (h : Updates s t) (n : Nat) : Updates s (t.drawFree n) := { h with }

theorem loadRegs (h : Updates s t) (e : Endian) (m : Memory) (l : List (LoReg × Word)) :
    Updates s (Machine.loadRegs e m t l) := by
  induction l generalizing t with
  | nil => exact h
  | cons c l ih => exact ih (h.setLo c.1 _)

end Updates

/-! Writes that their checks admitted. -/

theorem writesAdmitted_storeValue {s : State} {k : StoreKind} {a : Word}
    (h : checkAccess s .write a k.size = .granted) (v : Word) : WritesAdmitted s (storeValue s k a v) := by
  intro hwf
  obtain ⟨-, hadmitted⟩ := checkAccess_granted_iff_accessible.mp h
  refine ⟨storeValue_wf hwf k a v, fun b hb => memKeptOutside_storeValue hwf k a v b fun hmem => ?_⟩
  cases hb.symm.trans (hadmitted b hmem)

theorem writesAdmitted_writeWords {s : State} {as : List Word} (h : checkWords s .write as = .granted)
    (vs : List Word) : WritesAdmitted s (writeWords s.params.endian s.mem (as.zip vs)) := by
  intro hwf
  refine ⟨writeWords_wf hwf _ _, fun b hb => readByte_writeWords_other hwf _ _ fun c hc hmem => ?_⟩
  obtain ⟨-, hadmitted⟩ :=
    checkAccess_granted_iff_accessible.mp (checkWords_granted.mp h c.1 (List.of_mem_zip hc).1)
  cases hb.symm.trans (hadmitted b hmem)

/-! The effect of an instruction. -/

/-- What an instruction executed at a running state can give: it stays in Thumb state, it leaves it for a word-aligned
target, or it takes an exception. -/
inductive Effect (s t : State) : Prop where
  | staysThumb (h : WithinMode s t) (hthumb : t.cpsr.t = true) (hended : t.ended = none ∨ t.ended = some .exited)
      (hpc : s.pc.getLsbD 0 = false → t.pc.getLsbD 0 = false)
  | leavesThumb (c : Cause) (h : WithinMode s t) (harm : t.cpsr.t = false) (hended : t.ended = some (.leftThumb c))
      (hpc : t.pc.getLsbD 0 = false ∧ t.pc.getLsbD 1 = false)
  | exception (e : Exc) (h : t = takeException e s)

/-- A result that is a next state with such an effect, or a refusal; no fault. -/
def Answers (s : State) (r : Result) : Prop :=
  match r with
  | .next t => Effect s t
  | .fault _ => False
  | .refused _ => True

theorem getLsbD_zero_add {a b : Word} (ha : a.getLsbD 0 = false) (hb : b.getLsbD 0 = false) :
    (a + b).getLsbD 0 = false := by
  rw [getLsbD_zero_eq_false_iff] at ha hb ⊢
  rw [BitVec.toNat_add]
  omega

theorem clearBit0_even (v : Word) : (clearBit0 v).getLsbD 0 = false := by
  rw [clearBit0, BitVec.getLsbD_and]
  exact Bool.and_false _

theorem clearBits10_word (v : Word) : (clearBits10 v).getLsbD 0 = false ∧ (clearBits10 v).getLsbD 1 = false := by
  rw [clearBits10, BitVec.getLsbD_and, BitVec.getLsbD_and]
  exact ⟨Bool.and_false _, Bool.and_false _⟩

theorem branchOffset_even {w : Nat} (x : BitVec w) : (branchOffset x).getLsbD 0 = false := by
  rw [branchOffset_eq, getLsbD_zero_eq_false_iff, BitVec.toNat_ofInt]
  omega

section
variable {s t : State}

/-! The shared ways of ending an instruction. -/

theorem effect_setPc (hrun : Running s) (h : Updates s t) {v : Word}
    (hv : s.pc.getLsbD 0 = false → v.getLsbD 0 = false) : Effect s (t.setPc v) :=
  .staysThumb { h.toWithinMode with } (h.thumb.trans hrun.2) (.inl (h.ended.trans hrun.1)) hv

theorem answers_advance (hrun : Running s) (h : Updates s t) : Answers s (advance t) := by
  unfold advance
  split
  · trivial
  · exact effect_setPc hrun h fun heven => getLsbD_zero_add (h.pc ▸ heven) rfl

theorem answers_exit (hrun : Running s) : Answers s (advance (s.finish .exited)) := by
  unfold advance
  split
  · trivial
  · exact .staysThumb { (Updates.refl s).toWithinMode with } hrun.2 (.inr rfl) fun heven =>
      getLsbD_zero_add heven rfl

theorem answers_exception (s : State) (e : Exc) : Answers s (.next (takeException e s)) := .exception e rfl

theorem answers_blxLabel (s : State) (off : BitVec 10) : Answers s (execBlxLabel off s) := by
  cases harch : s.params.arch with
  | v4T =>
    rw [execBlxLabel_v4T harch]
    exact answers_exception s _
  | v5T =>
    have h := (Updates.refl s).setLr (linkValue s)
    rw [execBlxLabel_v5T harch]
    exact .leavesThumb .blx { h.toWithinMode with control := h.control } rfl rfl (clearBits10_word _)

theorem answers_guarded {c : Access} {done : Result} (h : c = .granted → Answers s done) :
    Answers s (guarded c s done) := by
  cases c with
  | granted => exact h rfl
  | aborts a => exact answers_exception s _
  | refuses a => trivial

theorem answers_interwork (hrun : Running s) (h : Updates s t) (c : Cause) (bad : Refusal) (v : Word) :
    Answers s (interwork c bad v t) := by
  have hcontrol (b : Bool) : SameControl s.cpsr { t.cpsr with t := b } := h.control
  unfold interwork
  split
  · exact .staysThumb { h.toWithinMode with control := hcontrol true } rfl (.inl (h.ended.trans hrun.1))
      fun _ => clearBit0_even v
  · next h0 =>
    split
    · trivial
    · next h1 =>
      exact .leavesThumb c { h.toWithinMode with control := hcontrol false } rfl rfl
        ⟨eq_false_of_ne_true h0, eq_false_of_ne_true h1⟩

theorem answers_writeReg (hrun : Running s) (d : Reg) (v : Word) : Answers s (writeReg d v s) := by
  unfold writeReg
  split
  · next p hp => exact answers_advance hrun ((Updates.refl s).setPhys hp v)
  · exact effect_setPc hrun (.refl s) fun _ => clearBit0_even v

theorem answers_branchIf (hrun : Running s) (c : Cond) (off : BitVec 8) : Answers s (branchIf c off s) := by
  unfold branchIf
  split
  · exact effect_setPc hrun (.refl s) fun heven =>
      getLsbD_zero_add (getLsbD_zero_add heven rfl) (branchOffset_even off)
  · exact answers_advance hrun (.refl s)

end

/-! The shared ways of writing a result. -/

section
variable {s : State} (hrun : Running s)
include hrun

theorem answers_writeSum (d : LoReg) (r : SumResult) : Answers s (writeSum d r s) :=
  answers_advance hrun (((Updates.refl s).setLo d _).setFlags (sameButFlags_withSum _ _))

theorem answers_compareSum (r : SumResult) : Answers s (compareSum r s) :=
  answers_advance hrun ((Updates.refl s).setFlags (sameButFlags_withSum _ _))

theorem answers_writeLogic (d : LoReg) (r : Word) : Answers s (writeLogic d r s) :=
  answers_advance hrun (((Updates.refl s).setLo d _).setFlags (sameButFlags_withNZ _ _))

theorem answers_compareLogic (r : Word) : Answers s (compareLogic r s) :=
  answers_advance hrun ((Updates.refl s).setFlags (sameButFlags_withNZ _ _))

theorem answers_writeShift (d : LoReg) (r : ShiftResult) : Answers s (writeShift d r s) :=
  answers_advance hrun (((Updates.refl s).setLo d _).setFlags (sameButFlags_withShift _ _))

theorem answers_setLo (d : LoReg) (v : Word) : Answers s (advance (s.setLo d v)) :=
  answers_advance hrun ((Updates.refl s).setLo d v)

theorem answers_setSp (v : Word) : Answers s (advance (s.setSp v)) :=
  answers_advance hrun ((Updates.refl s).setSp v)

theorem answers_loadLo (k : LoadKind) (d : LoReg) (a : Word) : Answers s (loadLo k d a s) :=
  answers_guarded fun _ => answers_setLo hrun d _

theorem answers_storeLo (k : StoreKind) (d : LoReg) (a : Word) : Answers s (storeLo k d a s) :=
  answers_guarded fun hgranted =>
    answers_advance hrun ((Updates.refl s).setMem (writesAdmitted_storeValue hgranted _))

/-! Instructions with cases of their own. -/

theorem answers_mul (d m : LoReg) : Answers s (execMul d m s) := by
  by_cases hsame : d = m ∧ s.params.mulSameReg = .refuse
  · rw [execMul, if_pos hsame]
    trivial
  · have hdefined : d ≠ m ∨ s.params.mulSameReg = .compute := by
      cases hpolicy : s.params.mulSameReg with
      | refuse => exact .inl fun he => hsame ⟨he, hpolicy⟩
      | compute => exact .inr rfl
    rw [execMul_eq hdefined]
    exact answers_advance hrun
      ((((Updates.refl s).setLo d _).setFlags (sameButFlags_mulStatus s _)).drawFree _)

theorem answers_addHi (d m : Reg) : Answers s (execAddHi d m s) := by
  unfold execAddHi
  split
  · trivial
  · exact answers_writeReg hrun d _

theorem answers_movHi (d m : Reg) : Answers s (execMovHi d m s) := by
  unfold execMovHi
  split
  · trivial
  · exact answers_writeReg hrun d _

theorem answers_cmpHi (n m : Reg) : Answers s (execCmpHi n m s) := by
  unfold execCmpHi
  split
  · trivial
  · split
    · trivial
    · exact answers_compareSum hrun _

theorem answers_bx (m : Reg) (z : BitVec 3) : Answers s (execBx m z s) := by
  unfold execBx
  split
  · exact answers_interwork hrun (.refl s) _ _ _
  · trivial

theorem answers_blxReg (m : Reg) (z : BitVec 3) : Answers s (execBlxReg m z s) := by
  cases harch : s.params.arch with
  | v4T =>
    rw [execBlxReg_v4T harch]
    trivial
  | v5T =>
    rw [execBlxReg_v5T harch]
    split
    · split
      · trivial
      · exact answers_interwork hrun ((Updates.refl s).setLr _) _ _ _
    · trivial

theorem answers_blSecond (off : BitVec 11) : Answers s (execBlSecond off s) :=
  effect_setPc hrun ((Updates.refl s).setLr _) fun _ => clearBit0_even _

theorem answers_swi (imm : BitVec 8) : Answers s (execSwi imm s) := by
  unfold execSwi
  split
  · exact answers_exception s _
  · split
    · exact answers_advance hrun ((Updates.refl s).putOutput _)
    · split
      · exact answers_exit hrun
      · trivial

theorem answers_stmia (n : LoReg) (list : BitVec 8) : Answers s (execStmia n list s) := by
  unfold execStmia
  split
  · trivial
  · split
    · trivial
    · exact answers_guarded fun hgranted =>
        answers_advance hrun (((Updates.refl s).setMem (writesAdmitted_writeWords hgranted _)).setLo n _)

theorem answers_ldmia (n : LoReg) (list : BitVec 8) : Answers s (execLdmia n list s) := by
  unfold execLdmia
  split
  · trivial
  · split
    · trivial
    · exact answers_guarded fun _ => answers_advance hrun (((Updates.refl s).loadRegs _ _ _).setLo n _)

theorem answers_push (r : Bool) (list : BitVec 8) : Answers s (execPush r list s) := by
  by_cases hk : rank list 8 + r.toNat = 0
  · rw [execPush_of_count_zero hk]
    trivial
  · rw [execPush_eq hk]
    exact answers_guarded fun hgranted =>
      answers_advance hrun
        (((Updates.refl s).setMem (writesAdmitted_writeWords hgranted _)).setPhys (physOf_sp _) _)

theorem answers_popBranch (list : BitVec 8) : Answers s (popBranch s list) := by
  have h : Updates s (popped s list (rank list 8 + 1)) := ((Updates.refl s).loadRegs _ _ _).setSp _
  unfold popBranch
  split
  · exact effect_setPc hrun h fun _ => clearBit0_even _
  · exact answers_interwork hrun h _ _ _

theorem answers_pop (r : Bool) (list : BitVec 8) : Answers s (execPop r list s) := by
  cases r with
  | true =>
    rw [execPop_eq_branch]
    exact answers_guarded fun _ => answers_popBranch hrun list
  | false =>
    by_cases hlist : list = 0#8
    · rw [hlist, execPop_empty]
      trivial
    · rw [execPop_eq_advance hlist]
      exact answers_guarded fun _ => answers_advance hrun (((Updates.refl s).loadRegs _ _ _).setSp _)

/-- Every instruction, executed at a running state. -/
theorem exec_answers (i : Instr) : Answers s (exec i s) := by
  cases i
  case lslImm | lsrImm | asrImm | lslReg | lsrReg | asrReg | rorReg => exact answers_writeShift hrun _ _
  case addReg | subReg | addImm3 | subImm3 | addImm8 | subImm8 | adc | sbc | neg => exact answers_writeSum hrun _ _
  case cmpImm8 | cmpReg | cmn => exact answers_compareSum hrun _
  case movImm8 | andReg | eorReg | orr | bic | mvn => exact answers_writeLogic hrun _ _
  case tst => exact answers_compareLogic hrun _
  case mul => exact answers_mul hrun _ _
  case addHi => exact answers_addHi hrun _ _
  case cmpHi => exact answers_cmpHi hrun _ _
  case movHi => exact answers_movHi hrun _ _
  case bx => exact answers_bx hrun _ _
  case blxReg => exact answers_blxReg hrun _ _
  case ldrPc | ldrsbReg | ldrReg | ldrhReg | ldrbReg | ldrshReg | ldrImm | ldrbImm | ldrhImm | ldrSp =>
    exact answers_loadLo hrun _ _ _
  case strReg | strhReg | strbReg | strImm | strbImm | strhImm | strSp => exact answers_storeLo hrun _ _ _
  case addPc | addRdSp => exact answers_setLo hrun _ _
  case addSp | subSp => exact answers_setSp hrun _
  case push => exact answers_push hrun _ _
  case pop => exact answers_pop hrun _ _
  case stmia => exact answers_stmia hrun _ _
  case ldmia => exact answers_ldmia hrun _ _
  case beq | bne | bcs | bcc | bmi | bpl | bvs | bvc | bhi | bls | bge | blt | bgt | ble =>
    exact answers_branchIf hrun _ _
  case swi => exact answers_swi hrun _
  case b off =>
    exact effect_setPc hrun (.refl s) fun heven =>
      getLsbD_zero_add (getLsbD_zero_add heven rfl) (branchOffset_even off)
  case blxLabel => exact answers_blxLabel s _
  case blFirst => exact answers_advance hrun ((Updates.refl s).setLr _)
  case blSecond => exact answers_blSecond hrun _
  case undB1 | undB2 | undB6 | undB8 | undBF | undDE | undE8 => exact answers_exception s _
  case refuseU9 => trivial

end

end Sys2Proof.Machine
end

section
/-! SUPPORT. What a step does: which of its four cases applies (00_scope.md R14, 60_exceptions.md R285), and the
statements on single steps. -/

namespace Sys2Proof.Machine

section
variable {s : State}

/-! The exceptions taken before the fetch, by priority. -/

theorem pendingException_reset (h : s.stepNo ∈ s.events.resetAt) : pendingException s = some .reset :=
  if_pos (List.contains_iff_mem.mpr h)

theorem not_contains_of_not_mem {l : List Nat} {n : Nat} (h : n ∉ l) : ¬ l.contains n = true :=
  List.contains_iff_mem.not.mpr h

theorem pendingException_fiq (hreset : s.stepNo ∉ s.events.resetAt) (h : s.stepNo ∈ s.events.fiqAt)
    (hf : s.cpsr.f = false) : pendingException s = some .fiq := by
  have hfiq : (s.events.fiqAt.contains s.stepNo && !s.cpsr.f) = true := by
    rw [List.contains_iff_mem.mpr h, hf]
    rfl
  rw [pendingException, if_neg (not_contains_of_not_mem hreset), if_pos hfiq]

/-- An input that is not asserted, or is masked, takes no exception. -/
theorem not_asserted_unmasked {l : List Nat} {n : Nat} {mask : Bool} (h : n ∉ l ∨ mask = true) :
    ¬ (l.contains n && !mask) = true := by
  rw [Bool.and_eq_true, List.contains_iff_mem, Bool.not_eq_true']
  rintro ⟨hmem, hmask⟩
  rcases h with h | h
  · exact h hmem
  · cases hmask.symm.trans h

theorem pendingException_irq (hreset : s.stepNo ∉ s.events.resetAt)
    (hfiq : s.stepNo ∉ s.events.fiqAt ∨ s.cpsr.f = true) (h : s.stepNo ∈ s.events.irqAt) (hi : s.cpsr.i = false) :
    pendingException s = some .irq := by
  have hirq : (s.events.irqAt.contains s.stepNo && !s.cpsr.i) = true := by
    rw [List.contains_iff_mem.mpr h, hi]
    rfl
  rw [pendingException, if_neg (not_contains_of_not_mem hreset), if_neg (not_asserted_unmasked hfiq), if_pos hirq]

theorem pendingException_none (hreset : s.stepNo ∉ s.events.resetAt)
    (hfiq : s.stepNo ∉ s.events.fiqAt ∨ s.cpsr.f = true) (hirq : s.stepNo ∉ s.events.irqAt ∨ s.cpsr.i = true) :
    pendingException s = none := by
  rw [pendingException, if_neg (not_contains_of_not_mem hreset), if_neg (not_asserted_unmasked hfiq),
    if_neg (not_asserted_unmasked hirq)]

/-! The fetch. -/

theorem fetchHalf_admitted (h0 : admitsByte s.params.mem .fetch s.pc.toNat = true)
    (h1 : admitsByte s.params.mem .fetch (s.pc + 1#32).toNat = true) :
    fetchHalf s = some (readHalf s.params.endian s.mem s.pc) := by
  simp only [fetchHalf, admits, byteAddrs, List.all_cons, List.all_nil, h0, h1, Bool.and_self, if_true]

theorem fetchHalf_not_admitted (h : admitsByte s.params.mem .fetch s.pc.toNat = false ∨
    admitsByte s.params.mem .fetch (s.pc + 1#32).toNat = false) : fetchHalf s = none := by
  rcases h with h | h
  · simp only [fetchHalf, admits, byteAddrs, List.all_cons, h, Bool.false_and, Bool.false_eq_true, if_false]
  · simp only [fetchHalf, admits, byteAddrs, List.all_cons, h, Bool.false_and, Bool.and_false, Bool.false_eq_true,
      if_false]

/-! The cases of a step. -/

theorem step_of_pending (hrun : Running s) {e : Exc} (h : pendingException s = some e) :
    step s = countStep (.next (takeException e s)) := by
  rw [step, stopped_eq_none.mpr hrun, h]

theorem step_of_fetch_not_admitted (hrun : Running s) (h : pendingException s = none) (hfetch : fetchHalf s = none) :
    step s = countStep (.next (takeException (.prefetchAbort s.pc) s)) := by
  rw [step, stopped_eq_none.mpr hrun, h, hfetch]

theorem step_of_fetch (hrun : Running s) (h : pendingException s = none) {w : Half} (hfetch : fetchHalf s = some w) :
    step s = countStep (exec (decodeHalf w) s) := by
  rw [step, stopped_eq_none.mpr hrun, h, hfetch]

end

/-- Settles O7: the inputs in the order of their priority, then the fetch. -/
theorem stepTakesExceptionsByPriority : Obligations.StepTakesExceptionsByPriority := by
  intro s hrun
  exact ⟨fun h => step_of_pending hrun (pendingException_reset h),
    fun hreset h hf => step_of_pending hrun (pendingException_fiq hreset h hf),
    fun hreset hfiq h hi => step_of_pending hrun (pendingException_irq hreset hfiq h hi),
    fun hreset hfiq hirq h =>
      step_of_fetch_not_admitted hrun (pendingException_none hreset hfiq hirq) (fetchHalf_not_admitted h)⟩

/-- Settles O5: nothing is pending, and the halfword fetched decodes as its bytes do. -/
theorem stepRunsDecodedInstruction : Obligations.StepRunsDecodedInstruction := by
  intro s i hrun hreset hfiq hirq h0 h1 hdecode
  have hpending := pendingException_none hreset (imp_iff_not_or.mp hfiq) (imp_iff_not_or.mp hirq)
  have hi : decodeHalf (readHalf s.params.endian s.mem s.pc) = i := congrArg Prod.fst (Except.ok.inj hdecode)
  rw [step_of_fetch hrun hpending (fetchHalf_admitted h0 h1), hi]

/-! A word placed at the pc. -/

section
variable {s : State}

theorem withFetchWord_running (nbits w : Nat) : Running (s.withFetchWord nbits w) := ⟨rfl, rfl⟩

/-- No input is asserted at the step that runs a placed word. -/
theorem withFetchWord_pending (nbits w : Nat) : pendingException (s.withFetchWord nbits w) = none := by
  have hfilter (l : List Nat) : s.stepNo ∉ l.filter (· != s.stepNo) := fun h => by
    simpa using (List.mem_filter.mp h).2
  exact pendingException_none (hfilter _) (.inl (hfilter _)) (.inl (hfilter _))

theorem withFetchWord_admits (nbits w : Nat) :
    admitsByte (s.withFetchWord nbits w).params.mem .fetch s.pc.toNat = true ∧
    admitsByte (s.withFetchWord nbits w).params.mem .fetch (s.pc + 1#32).toNat = true := by
  constructor
  · simp [State.withFetchWord, admitsByte, inRegions, inRegion]
  · simp [State.withFetchWord, admitsByte, inRegions, inRegion]

/-- The halfword read back from the two bytes placed. -/
theorem withFetchWord_readHalf (hwf : s.mem.wf = true) (w : Half) :
    readHalf s.params.endian (s.withFetchWord 16 w.toNat).mem s.pc = w := by
  have hw : BitVec.ofNat 16 (w.toNat % 2 ^ 16) = w := by
    rw [Nat.mod_eq_of_lt w.isLt, BitVec.ofNat_toNat, BitVec.setWidth_eq]
  have hwf' (b : Byte) := writeByte_wf (b := b) hwf s.pc.isLt
  have hnext : s.pc.toNat ≠ (s.pc + 1#32).toNat := fun h =>
    absurd ((toNat_add_ofNat_eq_self s.pc (k := 1) (by decide)).mp h.symm) (by decide)
  simp only [State.withFetchWord, hw, readHalf, readByte_writeByte (hwf' _), readByte_writeByte hwf, if_neg hnext,
    if_true]
  exact joinHalf_splitHalf _ w

end

/-- Settles O6: nothing is pending, the word's bytes are admitted, and the word decodes to the instruction. -/
theorem stepRunsPlacedWord : Obligations.StepRunsPlacedWord := by
  intro s i hwf
  obtain ⟨h0, h1⟩ := withFetchWord_admits (s := s) 16 (encode i).toNat
  have hread : readHalf (s.withFetchWord 16 (encode i).toNat).params.endian
      (s.withFetchWord 16 (encode i).toNat).mem (s.withFetchWord 16 (encode i).toNat).pc = encode i :=
    withFetchWord_readHalf hwf (encode i)
  rw [step_of_fetch (withFetchWord_running _ _) (withFetchWord_pending _ _) (fetchHalf_admitted h0 h1), hread,
    decodeHalf_encode]

end Sys2Proof.Machine
end

section
/-! SUPPORT. What every step keeps: the statements on steps, from the effects an instruction or exception can have. -/

namespace Sys2Proof.Machine

section
variable {s t : State}

/-! From an instruction's effect to a step's. -/

theorem countStep_ne_fault {r : Result} (h : Answers s r) (f : Fault) : countStep r ≠ .fault f := by
  cases r with
  | next t => exact (nomatch ·)
  | fault g => exact h.elim
  | refused r => exact (nomatch ·)

/-- A running state's step counts what an exception or an instruction answers. -/
theorem step_answers (hrun : Running s) : ∃ r, step s = countStep r ∧ Answers s r := by
  cases hpending : pendingException s with
  | some e => exact ⟨_, step_of_pending hrun hpending, answers_exception s e⟩
  | none =>
    cases hfetch : fetchHalf s with
    | none => exact ⟨_, step_of_fetch_not_admitted hrun hpending hfetch, answers_exception s _⟩
    | some w => exact ⟨_, step_of_fetch hrun hpending hfetch, exec_answers hrun _⟩

theorem step_effect (h : step s = .next t) :
    Running s ∧ ∃ u, t = { u with stepNo := u.stepNo + 1 } ∧ Effect s u := by
  obtain ⟨hended, hthumb, -⟩ := step_next h
  obtain ⟨r, hr, hanswers⟩ := step_answers ⟨hended, hthumb⟩
  obtain ⟨u, rfl, ht⟩ := countStep_next (hr.symm.trans h)
  exact ⟨⟨hended, hthumb⟩, u, ht, hanswers⟩

/-! What each effect keeps. -/

theorem Exc.vector_word (e : Exc) : e.vector.getLsbD 0 = false ∧ e.vector.getLsbD 1 = false := by
  cases e <;> simp [Exc.vector, Config.vectorBase]

theorem pcAligned_iff {s : State} :
    pcAligned s = true ↔ s.pc.getLsbD 0 = false ∧ (s.cpsr.t = true ∨ s.pc.getLsbD 1 = false) := by
  rw [pcAligned, Bool.and_eq_true, Bool.or_eq_true, Bool.not_eq_true', Bool.not_eq_true']

theorem effect_parameters (h : Effect s t) : t.params = s.params ∧ t.events = s.events ∧ t.stepNo = s.stepNo := by
  cases h with
  | staysThumb h => exact ⟨h.params, h.events, h.stepNo⟩
  | leavesThumb c h => exact ⟨h.params, h.events, h.stepNo⟩
  | exception e h =>
    obtain ⟨-, -, hparams, hevents, hstepNo, -⟩ := takeException_common e s
    exact h ▸ ⟨hparams, hevents, hstepNo⟩

theorem effect_writesAdmitted (h : Effect s t) : WritesAdmitted s t.mem := by
  cases h with
  | staysThumb h => exact h.mem
  | leavesThumb c h => exact h.mem
  | exception e h =>
    obtain ⟨-, hmem, -⟩ := takeException_common e s
    rw [h, hmem]
    exact (Updates.refl s).mem

theorem effect_pcAligned (heven : s.pc.getLsbD 0 = false) (h : Effect s t) : pcAligned t = true := by
  cases h with
  | staysThumb _ hthumb _ hpc => exact pcAligned_iff.mpr ⟨hpc heven, .inl hthumb⟩
  | leavesThumb c _ _ _ hpc => exact pcAligned_iff.mpr ⟨hpc.1, .inr hpc.2⟩
  | exception e h =>
    obtain ⟨hpc, -⟩ := takeException_common e s
    obtain ⟨h0, h1⟩ := e.vector_word
    rw [h, pcAligned_iff, hpc]
    exact ⟨h0, .inr h1⟩

/-- T tells whether the run has ended outside Thumb state. -/
theorem effect_thumb_iff (h : Effect s t) : t.cpsr.t = false ↔ ∃ c, t.ended = some (.leftThumb c) := by
  cases h with
  | staysThumb _ hthumb hended =>
    refine ⟨fun harm => (nomatch hthumb.symm.trans harm), ?_⟩
    rintro ⟨c, hc⟩
    rcases hended with hended | hended
    · cases hended.symm.trans hc
    · cases hended.symm.trans hc
  | leavesThumb c _ harm hended => exact ⟨fun _ => ⟨c, hended⟩, fun _ => harm⟩
  | exception e h =>
    obtain ⟨-, harm, -⟩ := takeException_cpsr e s
    obtain ⟨-, -, -, -, -, -, hended⟩ := takeException_common e s
    exact h ▸ ⟨fun _ => ⟨_, hended⟩, fun _ => harm⟩

theorem endConsistent_of_thumb_iff (h : t.cpsr.t = false ↔ ∃ c, t.ended = some (.leftThumb c)) :
    endConsistent t = true := by
  unfold endConsistent
  split
  · next c hc => rw [h.mpr ⟨c, hc⟩]; rfl
  · rfl
  · rfl

theorem effect_withinMode (h : Effect s t) (hexc : ∀ e, t.ended ≠ some (.leftThumb (.exception e))) :
    WithinMode s t := by
  cases h with
  | staysThumb h => exact h
  | leavesThumb c h => exact h
  | exception e h =>
    obtain ⟨-, -, -, -, -, -, hended⟩ := takeException_common e s
    exact absurd (h ▸ hended) (hexc e)

/-- A byte admitted for fetch is not admitted for write (R66). -/
theorem not_admits_write_of_fetch {mm : MemMap} {a : Nat} (h : admitsByte mm .fetch a = true) :
    admitsByte mm .write a = false := by
  have hfetch : inRegions mm.fetchable a = true := h
  rw [admitsByte, hfetch, Bool.not_true, Bool.and_false]

end

/-! The statements. -/

/-- Settles O12: the effect keeps memory canonical and the pc aligned, and T tells how the run has ended. -/
theorem stepKeepsInvariant : Obligations.StepKeepsInvariant := by
  rintro s t ⟨hwf, hpc, -⟩ h
  obtain ⟨-, u, rfl, heffect⟩ := step_effect h
  obtain ⟨heven, -⟩ := pcAligned_iff.mp hpc
  obtain ⟨hmem, -⟩ := effect_writesAdmitted heffect hwf
  have haligned : pcAligned u = true := effect_pcAligned heven heffect
  have hends : endConsistent u = true := endConsistent_of_thumb_iff (effect_thumb_iff heffect)
  exact ⟨hmem, haligned, hends⟩

/-- Settles O14: every write passed the check of its bytes, which no fetchable byte passes. -/
theorem stepNeverWritesUnadmittedBytes : Obligations.StepNeverWritesUnadmittedBytes := by
  intro s t hwf h
  obtain ⟨-, u, rfl, heffect⟩ := step_effect h
  obtain ⟨-, hkept⟩ := effect_writesAdmitted heffect hwf
  exact ⟨hkept, fun a ha => hkept a (not_admits_write_of_fetch ha)⟩

/-- Settles O15: of the three effects, two clear T and end the run, the third does neither. -/
theorem thumbStateLeftOnlyByEndStates : Obligations.ThumbStateLeftOnlyByEndStates := by
  intro s t h
  obtain ⟨-, u, rfl, heffect⟩ := step_effect h
  have hthumb : u.cpsr.t = false ↔ ∃ c, u.ended = some (.leftThumb c) := effect_thumb_iff heffect
  exact hthumb

/-- Settles O16: an effect that is no exception stays within the mode. -/
theorem onlyExceptionsChangeModeAndBanks : Obligations.OnlyExceptionsChangeModeAndBanks := by
  intro s t h hexc
  obtain ⟨-, u, rfl, heffect⟩ := step_effect h
  have hwithin := effect_withinMode heffect hexc
  obtain ⟨hm, hi, hf, hreserved⟩ := hwithin.control
  exact ⟨hm, hi, hf, hreserved, hwithin.spsr, hwithin.regs⟩

/-- Settles O13: no effect changes the parameters, the schedule or the count, and the step adds one to it. -/
theorem stepKeepsParameters : Obligations.StepKeepsParameters := by
  intro s t h
  obtain ⟨-, u, rfl, heffect⟩ := step_effect h
  obtain ⟨hparams, hevents, hstepNo⟩ := effect_parameters heffect
  exact ⟨hparams, hevents, congrArg (· + 1) hstepNo⟩

/-- Settles O8: a state that is not running stops for its reason; a running one answers no fault. -/
theorem stepStopsOutsideThumb : Obligations.StepStopsOutsideThumb := by
  intro s
  refine ⟨fun c hended => step_of_stopped ?left, fun hended => step_of_stopped ?exited,
    fun hended hthumb => step_of_stopped (stopped_of_armState hended hthumb), fun hrun f => ?running⟩
  case left => rw [stopped, hended]
  case exited => rw [stopped, hended]
  case running =>
    obtain ⟨r, hr, hanswers⟩ := step_answers hrun
    rw [hr]
    exact countStep_ne_fault hanswers f

/-- Settles O11: nothing is listed in memory, the pc is 0 and the run has not ended. -/
theorem resetMeetsInvariant : Obligations.ResetMeetsInvariant :=
  ⟨reset_mem_wf, pcAligned_iff.mpr ⟨rfl, .inr rfl⟩, rfl⟩

end Sys2Proof.Machine
end

section
/-! SUPPORT. The launch (10_state.md R38, 20_memory.md R66): what loading bytes leaves in memory, sets that share no
byte, and the statement assembled. -/

namespace Sys2Proof.Machine

/-! Loaded bytes. -/

/-- Loading bytes leaves every address that is not listed as it was. -/
theorem readByte_loadBytes_not_listed {m : Memory} (h : m.wf = true) {l : List Host.Cell} {a : Nat}
    (ha : a ∉ l.map Prod.fst) : readByte (loadBytes m l) a = readByte m a := by
  induction l generalizing m with
  | nil => rfl
  | cons c l ih =>
    rw [List.map_cons, List.mem_cons, not_or] at ha
    obtain ⟨hne, ha⟩ := ha
    have hcell : loadBytes m (c :: l) = loadBytes (loadBytes m [c]) l := loadBytes_append m [c] l
    rw [hcell, ih (loadBytes_wf h [c]) ha, readByte_loadCell h, if_neg fun hk => hne hk.1]

/-- An address holds the last byte given for it. -/
theorem readByte_loadBytes_last {m : Memory} (h : m.wf = true) (before : List Host.Cell) {a : Nat} (b : Byte)
    {after : List Host.Cell} (hlast : a ∉ after.map Prod.fst) (ha : a < 2 ^ 32) :
    readByte (loadBytes m (before ++ (a, b) :: after)) a = b := by
  have hsplit : loadBytes m (before ++ (a, b) :: after) =
      loadBytes (loadBytes (loadBytes m before) [(a, b)]) after := by
    rw [loadBytes_append, ← loadBytes_append _ [(a, b)] after]
    rfl
  have hwf := loadBytes_wf h before
  rw [hsplit, readByte_loadBytes_not_listed (loadBytes_wf hwf _) hlast, readByte_loadCell hwf, if_pos ⟨rfl, ha⟩]

/-! Sets of bytes. -/

theorem inRegions_iff {rs : List Region} {a : Nat} : inRegions rs a = true ↔ ∃ r ∈ rs, inRegion a r = true := by
  rw [inRegions, List.any_eq_true]

/-- Two sets are apart exactly when no byte is in both (R66). -/
theorem setsApart_iff {rs qs : List Region} :
    setsApart rs qs = true ↔ ∀ a, inRegions rs a = true → inRegions qs a = false := by
  simp only [setsApart, List.all_eq_true, regionsApart_iff, ← Bool.not_eq_true, inRegions_iff]
  constructor
  · rintro h a ⟨r, hr, ha⟩ ⟨q, hq, haq⟩
    exact h r hr q hq a ha haq
  · intro h r hr q hq a ha haq
    exact h a ⟨r, hr, ha⟩ ⟨q, hq, haq⟩

theorem launch_odd {l : Launch} (h : l.entry.getLsbD 0 = true) : launch l = .error .oddEntry := if_pos h

theorem launch_overlap {l : Launch} {a : Nat} (heven : l.entry.getLsbD 0 = false)
    (hw : inRegions l.params.mem.writable a = true) (hf : inRegions l.params.mem.fetchable a = true) :
    launch l = .error .selfModifyingCode := by
  have hapart : ¬ setsApart l.params.mem.writable l.params.mem.fetchable = true := fun h =>
    nomatch hf.symm.trans (setsApart_iff.mp h a hw)
  rw [launch, heven, if_neg Bool.false_ne_true, if_neg hapart]

/-- Settles O10: the two refusals, and otherwise the state of R38, its memory the bytes loaded into an empty one. -/
theorem launchAsSpecified : Obligations.LaunchAsSpecified := by
  intro l
  refine ⟨launch_odd, fun a heven hw hf => launch_overlap heven hw hf, fun heven hapart => ?gives, fun s hs => ?state⟩
  case gives => exact ⟨_, launch_eq_ok.mpr ⟨heven, setsApart_iff.mpr hapart, rfl⟩⟩
  case state =>
    obtain ⟨heven, hapart, rfl⟩ := launch_eq_ok.mp hs
    refine ⟨⟨rfl, rfl⟩, ⟨loadBytes_wf reset_mem_wf l.contents, pcAligned_iff.mpr ⟨heven, .inl rfl⟩, rfl⟩, rfl, rfl, rfl,
      rfl, rfl, rfl, rfl, rfl, rfl, rfl, rfl, fun before a b after hl hlast ha => ?_,
      fun a ha => readByte_loadBytes_not_listed reset_mem_wf ha, setsApart_iff.mp hapart⟩
    refine (congrArg (fun c => readByte (loadBytes [] c) a) hl).trans ?_
    exact readByte_loadBytes_last reset_mem_wf before b hlast ha

end Sys2Proof.Machine
end

section
/-! SUPPORT. Sequential execution past the top of the address space (10_state.md R28, U19): the instructions that would
move on from 0xFFFFFFFE, each as what it does before it moves on. -/

namespace Sys2Proof.Machine

section
variable {i : Instr} {s : State}

/-- An instruction that moves on, with its pc at the last halfword. -/
theorem wraps_of_exec {u : State} (hpc : s.pc = 0xFFFFFFFE#32) (h : exec i s = advance u ∧ u.pc = s.pc) :
    exec i s = .refused .sequentialWrap :=
  h.1.trans (advance_wrap (h.2.trans hpc))

/-- An instruction that moves on once its access is granted. -/
theorem wraps_of_guarded {c : Access} {u : State} (hpc : s.pc = 0xFFFFFFFE#32) (hgranted : c = .granted)
    (h : exec i s = guarded c s (advance u)) (hu : u.pc = s.pc) : exec i s = .refused .sequentialWrap := by
  subst hgranted
  exact wraps_of_exec hpc ⟨h, hu⟩

theorem exec_registerOnly (h : registerOnly i = true) : ∃ u, exec i s = advance u ∧ u.pc = s.pc := by
  cases i
  case lslImm | lsrImm | asrImm | addReg | subReg | addImm3 | subImm3 | movImm8 | cmpImm8 | addImm8 | subImm8 | andReg
      | eorReg | lslReg | lsrReg | asrReg | adc | sbc | rorReg | tst | neg | cmpReg | cmn | orr | bic | mvn | addPc
      | addRdSp | addSp | subSp | blFirst =>
    exact ⟨_, rfl, rfl⟩
  all_goals cases h

/-- A Hi register that is not r15 is a physical one. -/
theorem writeReg_of_ne_pc {d : Reg} (h : d ≠ 15#4) (v : Word) :
    ∃ u, writeReg d v s = advance u ∧ u.pc = s.pc := by
  obtain ⟨p, hp⟩ := Option.ne_none_iff_exists'.mp ((physOf_eq_none s.cpsr.m d).not.mpr h)
  exact ⟨_, writeReg_of_physOf hp v, rfl⟩

theorem mem_conditionalBranches {off : BitVec 8} {c : Cond} (h : (i, c) ∈ conditionalBranches off) :
    i = condBranch c off := by
  simp only [conditionalBranches, List.mem_cons, Prod.mk.injEq, List.not_mem_nil, or_false] at h
  rcases h with ⟨rfl, rfl⟩ | ⟨rfl, rfl⟩ | ⟨rfl, rfl⟩ | ⟨rfl, rfl⟩ | ⟨rfl, rfl⟩ | ⟨rfl, rfl⟩ | ⟨rfl, rfl⟩ | ⟨rfl, rfl⟩ |
    ⟨rfl, rfl⟩ | ⟨rfl, rfl⟩ | ⟨rfl, rfl⟩ | ⟨rfl, rfl⟩ | ⟨rfl, rfl⟩ | ⟨rfl, rfl⟩ <;> rfl

end

/-- Settles O24: each instruction reaches its advance, which the last halfword refuses. -/
theorem sequentialWrapRefused : Obligations.SequentialWrapRefused := by
  intro s hpc
  refine ⟨fun i h => ?registers, fun d m hdefined => ?mul, fun d m hhi hd => ⟨?addHi, ?movHi, fun hm => ?cmpHi⟩,
    fun off i c hmem hfails => ?notTaken, fun i k a n h hacc => ?single,
    fun n list hlist hbase => ⟨fun hacc => ?stmia, fun hacc => ?ldmia⟩, fun r list k hk hne hacc => ?push,
    fun list hlist hacc => ?pop, fun henv => ⟨?writeC, ?exit⟩⟩
  case registers =>
    obtain ⟨u, hu⟩ := exec_registerOnly (s := s) h
    exact wraps_of_exec hpc hu
  case mul => exact wraps_of_exec hpc ⟨execMul_eq hdefined, rfl⟩
  case addHi =>
    obtain ⟨u, hu, hupc⟩ := writeReg_of_ne_pc (s := s) hd (s.reg d + s.reg m)
    exact wraps_of_exec hpc ⟨(exec_addHi_of_hi hhi s).trans hu, hupc⟩
  case movHi =>
    obtain ⟨u, hu, hupc⟩ := writeReg_of_ne_pc (s := s) hd (s.reg m)
    exact wraps_of_exec hpc ⟨(exec_movHi_of_hi hhi s).trans hu, hupc⟩
  case cmpHi => exact wraps_of_exec hpc ⟨exec_cmpHi_of_hi hhi hd hm s, rfl⟩
  case notTaken =>
    have hexec : exec i s = advance s := by
      rw [mem_conditionalBranches hmem, exec_condBranch, branchIf, hfails, if_neg Bool.false_ne_true]
    exact wraps_of_exec hpc ⟨hexec, rfl⟩
  case single =>
    obtain ⟨u, hexec, hu⟩ := exec_of_accessOf h
    exact wraps_of_guarded hpc (checkAccess_granted_iff_accessible.mpr hacc) hexec hu
  case stmia => exact wraps_of_guarded hpc (checkWords_wordAddrs_granted.mpr hacc) (execStmia_eq hlist hbase s) rfl
  case ldmia =>
    exact wraps_of_guarded hpc (checkWords_wordAddrs_granted.mpr hacc) (execLdmia_eq hlist hbase s)
      ((State.setLo_pc ..).trans (loadRegs_fields ..).1)
  case push =>
    subst hk
    rw [← pushStart_eq] at hacc
    exact wraps_of_guarded hpc (checkWords_wordAddrs_granted.mpr hacc) (execPush_eq hne s) rfl
  case pop =>
    exact wraps_of_guarded hpc (checkWords_wordAddrs_granted.mpr hacc) (execPop_eq_advance hlist) (popped_pc s list _)
  case writeC => exact wraps_of_exec hpc ⟨exec_swi_writeC henv, rfl⟩
  case exit => exact wraps_of_exec hpc ⟨exec_swi_exit henv, rfl⟩

end Sys2Proof.Machine
end
